-- ==== Sys2Proof/Word.lean ====
section
/-! DEFINITION. The words of CE: the byte of its bus (20_memory.md R70) and the bus transaction word (30_encoding.md R105). -/

namespace Sys2Proof

/-- A byte: the only width of an access to CE (20_memory.md R81). -/
abbrev Byte := BitVec 8

/-- A host bus transaction word of format BUS: W 16, OFF 15:8, DATA 7:0 (30_encoding.md R105). -/
abbrev BusWord := BitVec 17

end Sys2Proof
end

