-- ==== Sys2Proof/Config.lean ====
section
/-! DEFINITION. What is fixed for this hardware (00_scope.md section 4) and the free values of the model. -/

namespace Sys2Proof.Config

/-- `ACC_W`: the width in bits of the signed accumulators (00_scope.md R6). It is fixed, not a parameter. -/
def accW : Nat := 64

/-- The draws of 20_memory.md R82: the byte that the n-th read during BUSY = 1 finds on the bus.
A free value: it has no body, so a claim holds whatever it is (log entry 3). -/
opaque freeByte : Nat → Byte

end Sys2Proof.Config
end

