-- ==== Sys2Proof/Syntax.lean ====
section
/-! DEFINITION. The instructions of CE: one constructor for each row of spec/opcode_table.json, and the encoded forms they have. -/

namespace Sys2Proof

/-- One constructor per row of spec/opcode_table.json: the commands the engine executes (30_encoding.md R102, R107;
60_exceptions.md R184) and the two transactions the host performs (30_encoding.md R105).
An illegal command carries its whole byte, so that no bit of the encoding is lost (log entry 11); `Instr.wellFormed` says which bytes
belong to its row. -/
inductive Instr where
  /-- byte 0x00 (43_control.md R160) -/
  | nop
  /-- byte 0x01 (40_calibration.md R120) -/
  | loadcal
  /-- byte 0x02 (41_temperature.md R132) -/
  | finet
  /-- byte 0x03 (41_temperature.md R135) -/
  | temp
  /-- byte 0x04 (42_pressure.md R144) -/
  | press
  /-- byte 0x05 (43_control.md R161) -/
  | comp
  /-- byte 0x80: NOP with TERR (60_exceptions.md R184) -/
  | nopTerr
  /-- byte 0x81: LOADCAL with TERR -/
  | loadcalTerr
  /-- byte 0x82: FINET with TERR -/
  | finetTerr
  /-- byte 0x83: TEMP with TERR -/
  | tempTerr
  /-- byte 0x84: PRESS with TERR -/
  | pressTerr
  /-- byte 0x85: COMP with TERR -/
  | compTerr
  /-- RSV = 0 and OP in 6..7 (30_encoding.md R107) -/
  | illegalOp6 (c : Byte)
  /-- RSV = 0 and OP in 8..15 -/
  | illegalOp8 (c : Byte)
  /-- bit 4 set -/
  | illegalRsv4 (c : Byte)
  /-- bits 5:4 = 10 -/
  | illegalRsv5 (c : Byte)
  /-- bits 6:4 = 100 -/
  | illegalRsv6 (c : Byte)
  /-- `MemWrite(off, 1, data)` (20_memory.md R71) -/
  | wr (off data : Byte)
  /-- `MemRead(off, 1)` (20_memory.md R77) -/
  | rd (off : Byte)
deriving DecidableEq, Repr

/-- The two encoded forms of 30_encoding.md R100. -/
inductive Code where
  /-- format CMD: a command byte (R101) -/
  | cmd (c : Byte)
  /-- format BUS: a transaction word (R105) -/
  | bus (w : BusWord)
deriving DecidableEq, Repr

/-- Why the decoder refuses a code. -/
inductive DecodeError where
  /-- A BUS word with W = 0 and DATA other than 0x00: R105 gives a read word DATA 0x00, so this is no transaction. -/
  | readWordWithData (w : BusWord)
deriving DecidableEq, Repr

end Sys2Proof
end

