-- ==== Sys2Proof/WellFormed.lean ====
section
/-! DEFINITION. Which terms of `Instr` stand for an encoding: the byte an illegal command carries belongs to its row. -/

namespace Sys2Proof

/-- The byte of an illegal command matches the mask and match of its row in spec/opcode_table.json (30_encoding.md R107). -/
def Instr.wellFormed : Instr → Bool
  | .nop | .loadcal | .finet | .temp | .press | .comp => true
  | .nopTerr | .loadcalTerr | .finetTerr | .tempTerr | .pressTerr | .compTerr => true
  | .illegalOp6 c => c &&& 0x7E#8 == 0x06#8
  | .illegalOp8 c => c &&& 0x78#8 == 0x08#8
  | .illegalRsv4 c => c &&& 0x10#8 == 0x10#8
  | .illegalRsv5 c => c &&& 0x30#8 == 0x20#8
  | .illegalRsv6 c => c &&& 0x70#8 == 0x40#8
  | .wr _ _ => true
  | .rd _ => true

end Sys2Proof
end

