-- ==== Sys2Proof/Decode.lean ====
section
/-! DEFINITION. The decoder of both formats (30_encoding.md R101 to R107) and the encoder. -/

namespace Sys2Proof

/-- `OP = CMD[3:0]` (30_encoding.md R101). -/
def cmdOp (c : Byte) : BitVec 4 := c.extractLsb' 0 4

/-- `RSV = CMD[6:4]`. -/
def cmdRsv (c : Byte) : BitVec 3 := c.extractLsb' 4 3

/-- `TERR = CMD[7]`. -/
def cmdTerr (c : Byte) : Bool := c.getLsbD 7

/-- The illegal commands by their rows of spec/opcode_table.json; the rows do not overlap (30_encoding.md R107). -/
def illegalRow (c : Byte) : Instr :=
  if c &&& 0x10#8 = 0x10#8 then .illegalRsv4 c
  else if c &&& 0x30#8 = 0x20#8 then .illegalRsv5 c
  else if c &&& 0x70#8 = 0x40#8 then .illegalRsv6 c
  else if c &&& 0x78#8 = 0x08#8 then .illegalOp8 c
  else .illegalOp6 c

/-- The legal operations, OP in 0x0..0x5, without and with TERR (30_encoding.md R102, R103). -/
def legalRow (terr : Bool) (op : BitVec 4) : Instr :=
  if op = 0x0#4 then (if terr then .nopTerr else .nop)
  else if op = 0x1#4 then (if terr then .loadcalTerr else .loadcal)
  else if op = 0x2#4 then (if terr then .finetTerr else .finet)
  else if op = 0x3#4 then (if terr then .tempTerr else .temp)
  else if op = 0x4#4 then (if terr then .pressTerr else .press)
  else (if terr then .compTerr else .comp)

/-- The command decoder of 30_encoding.md R103, total: the illegal check comes first, then TERR, then OP. -/
def decodeCmd (c : Byte) : Instr :=
  if cmdRsv c ≠ 0#3 ∨ 6 ≤ (cmdOp c).toNat then illegalRow c
  else legalRow (cmdTerr c) (cmdOp c)

/-- The transaction decoder of 30_encoding.md R105: W selects write or read; a read word has DATA 0x00 (log entry 8). -/
def decodeBus (w : BusWord) : Except DecodeError Instr :=
  if w.getLsbD 16 then .ok (.wr (w.extractLsb' 8 8) (w.extractLsb' 0 8))
  else if w.extractLsb' 0 8 = 0x00#8 then .ok (.rd (w.extractLsb' 8 8))
  else .error (.readWordWithData w)

/-- The decoder of both formats. -/
def decode : Code → Except DecodeError Instr
  | .cmd c => .ok (decodeCmd c)
  | .bus w => decodeBus w

/-- The words of an instruction, from 30_encoding.md R101, R102 and R105. -/
def encode : Instr → Code
  | .nop => .cmd 0x00#8
  | .loadcal => .cmd 0x01#8
  | .finet => .cmd 0x02#8
  | .temp => .cmd 0x03#8
  | .press => .cmd 0x04#8
  | .comp => .cmd 0x05#8
  | .nopTerr => .cmd 0x80#8
  | .loadcalTerr => .cmd 0x81#8
  | .finetTerr => .cmd 0x82#8
  | .tempTerr => .cmd 0x83#8
  | .pressTerr => .cmd 0x84#8
  | .compTerr => .cmd 0x85#8
  | .illegalOp6 c => .cmd c
  | .illegalOp8 c => .cmd c
  | .illegalRsv4 c => .cmd c
  | .illegalRsv5 c => .cmd c
  | .illegalRsv6 c => .cmd c
  | .wr off data => .bus (1#1 ++ off ++ data)
  | .rd off => .bus (0#1 ++ off ++ 0x00#8)

/-- The format of an instruction of `nbits` bits in whole bytes: a command is one byte, a transaction word three (log entry 5). -/
def codeOfTableWord (nbits w : Nat) : Code :=
  if nbits ≤ 8 then .cmd (BitVec.ofNat 8 w) else .bus (BitVec.ofNat 17 w)

/-- The instruction the decoder reads from a word numbered as spec/opcode_table.json numbers it. -/
def decodeTableWord (nbits w : Nat) : Option Instr :=
  match decode (codeOfTableWord nbits w) with
  | .ok i => some i
  | .error _ => none

end Sys2Proof
end

