-- ==== Sys2Proof/Machine/State.lean ====
section
/-! DEFINITION. The state of CE (spec/10_state.md), its reset value, and the reasons a step can stop. -/

namespace Sys2Proof.Machine

/-- The bits of STATUS (10_state.md R33). -/
inductive Flag where
  | busy | calValid | fineValid | tValid | pValid | pSent
deriving DecidableEq, Repr

/-- The codes of ERR (60_exceptions.md R182). -/
inductive ErrCode where
  | none | invalidCalibration | transport | notCalibrated | noFineTemp | overflow | illegalCommand
deriving DecidableEq, Repr

/-- The coefficient register file (10_state.md R45). T1 and P1 are read as unsigned, the others as two's complement. -/
structure Coefs where
  t1 : BitVec 16
  t2 : BitVec 16
  t3 : BitVec 16
  p1 : BitVec 16
  p2 : BitVec 16
  p3 : BitVec 16
  p4 : BitVec 16
  p5 : BitVec 16
  p6 : BitVec 16
  p7 : BitVec 16
  p8 : BitVec 16
  p9 : BitVec 16
deriving DecidableEq, Repr

/-- The register byte at an offset of the register map (20_memory.md R83): the register and the byte of it. -/
inductive Loc where
  | cmd | status | err
  | rawT (k : Fin 3) | rawP (k : Fin 3)
  | calraw (i : Fin 24)
  | fineT (k : Fin 4) | tempC100 (k : Fin 4) | pressQ8 (k : Fin 8)
  | coef (i : Fin 12) (k : Fin 2)
  | reserved
deriving DecidableEq, Repr

/-- What acts on CE next (00_scope.md R18): the host performs a transaction, the engine takes its turn, the platform
asserts the reset input (70_reset_and_hazards.md R200). The MODEL's own notion: log entry 1. -/
inductive Input where
  | bus (w : BusWord)
  | engine
  | reset
deriving DecidableEq, Repr

/-- The machine. The first eleven fields are all the state spec/10_state.md gives CE (CMD holds no value: R32; log entry 10); the last three are
the model's own. -/
structure State where
  /-- STATUS (R33) -/
  status : Byte
  /-- ERR (R41) -/
  err : Byte
  /-- RAW_T (R42) -/
  rawT : BitVec 24
  /-- RAW_P (R43) -/
  rawP : BitVec 24
  /-- CALRAW[0..23] (R44) -/
  calraw : Vector Byte 24
  /-- COEF_T1..COEF_P9 (R45) -/
  coef : Coefs
  /-- FINE_T (R46) -/
  fineT : BitVec 32
  /-- TEMP_C100 (R47) -/
  tempC100 : BitVec 32
  /-- PRESS_Q8 (R48) -/
  pressQ8 : BitVec 64
  /-- CAL_WMASK (R49) -/
  calWmask : BitVec 24
  /-- PENDING (R50) -/
  pending : Byte
  /-- the MODEL's own: the byte the last host read returned (log entry 2) -/
  reply : Byte
  /-- the MODEL's own: how many free bytes have been drawn (log entry 3) -/
  draws : Nat
  /-- the MODEL's own: what acts next, oldest first (log entry 1) -/
  inputs : List Input
deriving DecidableEq, Repr

/-- All coefficient registers zero, their reset value (10_state.md R45). -/
def Coefs.zero : Coefs := ⟨0, 0, 0, 0, 0, 0, 0, 0, 0, 0, 0, 0⟩

/-- CE right after reset (70_reset_and_hazards.md R200), with no input waiting. -/
def State.reset : State where
  status := 0x00#8
  err := 0x00#8
  rawT := 0#24
  rawP := 0#24
  calraw := Vector.replicate 24 0x00#8
  coef := Coefs.zero
  fineT := 0#32
  tempC100 := 0#32
  pressQ8 := 0#64
  calWmask := 0#24
  pending := 0x00#8
  reply := 0x00#8
  draws := 0
  inputs := []

/-- How a stage of a command ends (00_scope.md R16): done with its effects, or raised with its failure effects
(60_exceptions.md R181). ERR is written when the command completes. -/
inductive Stage where
  | done (s : State)
  | raised (e : ErrCode) (s : State)
deriving DecidableEq, Repr

/-- The result of the pressure function when no `chk` fails (42_pressure.md R141, R142). -/
inductive PressResult where
  | sentinel
  | value (v : Int)
deriving DecidableEq, Repr

/-- Why the machine stops with a fault: it never does. CE has no trap and every error is a code in ERR
(60_exceptions.md R180, R190), so no constructor is needed. -/
inductive Fault where
deriving DecidableEq, Repr

/-- Why a step has no meaning. -/
inductive Refusal where
  /-- Raised by an arm of `exec` that has no meaning yet. No arm does. Safe. -/
  | notModelled (mnemonic : String)
  /-- Raised by `step` for an input word that is no transaction of 30_encoding.md R105. Safe: no host transaction is refused. -/
  | notATransaction (e : DecodeError)
deriving DecidableEq, Repr

/-- What a step is to run: an instruction in a state, no instruction (a reset or an idle turn), or a refused input word. -/
inductive Fetched where
  | run (i : Instr) (s : State)
  | quiet (s : State)
  | rejected (e : DecodeError)
deriving DecidableEq, Repr

end Sys2Proof.Machine
end

