-- ==== Sys2Proof/Machine/Flags.lean ====
section
/-! DEFINITION. The bits of STATUS and their clearing rules (10_state.md R33 to R39), and the codes of ERR (60_exceptions.md R182). -/

namespace Sys2Proof.Machine

/-- The bit of STATUS a flag stands at (10_state.md R33). -/
def flagBit : Flag → Nat
  | .busy => 0
  | .calValid => 1
  | .fineValid => 2
  | .tValid => 3
  | .pValid => 4
  | .pSent => 5

/-- The byte with only the flag's bit set. -/
def flagMask (f : Flag) : Byte := 1#8 <<< flagBit f

/-- `STATUS.f`. -/
def readFlag (st : Byte) (f : Flag) : Bool := st.getLsbD (flagBit f)

/-- `STATUS.f <- b`; every other bit keeps its value. -/
def writeFlag (st : Byte) (f : Flag) (b : Bool) : Byte :=
  if b then st ||| flagMask f else st &&& ~~~flagMask f

/-- Clearing P_VALID also clears P_SENT (10_state.md R38). -/
def clearPValid (st : Byte) : Byte := writeFlag (writeFlag st .pValid false) .pSent false

/-- Clearing T_VALID (10_state.md R37). -/
def clearTValid (st : Byte) : Byte := writeFlag st .tValid false

/-- Clearing FINE_VALID also clears T_VALID, P_VALID and P_SENT (10_state.md R36). -/
def clearFineValid (st : Byte) : Byte := clearPValid (clearTValid (writeFlag st .fineValid false))

/-- Clearing CAL_VALID also clears FINE_VALID, with its consequences (10_state.md R35). -/
def clearCalValid (st : Byte) : Byte := clearFineValid (writeFlag st .calValid false)

/-- The STATUS byte a read returns while BUSY = 0: the reserved bits 7:6 read 0 (20_memory.md R77, log entry 9). -/
def statusRead (st : Byte) : Byte := st &&& 0x3F#8

/-- The STATUS byte a read returns while BUSY = 1: bit 0 is 1, bits 5:1 are drawn, bits 7:6 are 0 (20_memory.md R82, 10_state.md R33). -/
def statusDraw (draw : Byte) : Byte := (draw &&& 0x3E#8) ||| 0x01#8

/-- The ERR byte a read returns: bits 7:4 read 0 (10_state.md R41, 20_memory.md R77). -/
def errRead (e : Byte) : Byte := e &&& 0x0F#8

/-- The value of ERR for a code (60_exceptions.md R182). -/
def errByte : ErrCode → Byte
  | .none => 0x00#8
  | .invalidCalibration => 0x01#8
  | .transport => 0x02#8
  | .notCalibrated => 0x03#8
  | .noFineTemp => 0x04#8
  | .overflow => 0x05#8
  | .illegalCommand => 0x06#8

end Sys2Proof.Machine
end

