-- ==== Sys2Proof/Machine/Operands.lean ====
section
/-! DEFINITION. How values are assembled from bytes (30_encoding.md R106): the register map (20_memory.md R83), little-endian bytes of a
register (R79), ADC codes (41_temperature.md R130, 42_pressure.md R140) and coefficients (40_calibration.md R121). -/

namespace Sys2Proof.Machine

/-- Byte k of a register: bits [8k+7 : 8k] (20_memory.md R79). -/
def byteAt {n : Nat} (v : BitVec n) (k : Nat) : Byte := v.extractLsb' (8 * k) 8

/-- A register with byte k replaced: bits [8k+7 : 8k] take b (20_memory.md R71). -/
def setByteAt {n : Nat} (v : BitVec n) (k : Nat) (b : Byte) : BitVec n :=
  (v &&& ~~~((0xFF#8).setWidth n <<< (8 * k))) ||| (b.setWidth n <<< (8 * k))

/-- The register map of 20_memory.md R83, at the offset n. -/
def locateNat (n : Nat) : Loc :=
  if n = 0x00 then .cmd
  else if n = 0x01 then .status
  else if n = 0x02 then .err
  else if h : 0x04 ≤ n ∧ n ≤ 0x06 then .rawT ⟨n - 0x04, by omega⟩
  else if h : 0x08 ≤ n ∧ n ≤ 0x0A then .rawP ⟨n - 0x08, by omega⟩
  else if h : 0x10 ≤ n ∧ n ≤ 0x27 then .calraw ⟨n - 0x10, by omega⟩
  else if h : 0x28 ≤ n ∧ n ≤ 0x2B then .fineT ⟨n - 0x28, by omega⟩
  else if h : 0x2C ≤ n ∧ n ≤ 0x2F then .tempC100 ⟨n - 0x2C, by omega⟩
  else if h : 0x30 ≤ n ∧ n ≤ 0x37 then .pressQ8 ⟨n - 0x30, by omega⟩
  else if h : 0x40 ≤ n ∧ n ≤ 0x57 then .coef ⟨(n - 0x40) / 2, by omega⟩ ⟨(n - 0x40) % 2, by omega⟩
  else .reserved

/-- The register map of 20_memory.md R83. -/
def locate (off : Byte) : Loc := locateNat off.toNat

/-- The coefficient register k in the order T1, T2, T3, P1, ..., P9 (20_memory.md R83). -/
def coefReg (c : Coefs) (k : Fin 12) : BitVec 16 :=
  match k with
  | 0 => c.t1
  | 1 => c.t2
  | 2 => c.t3
  | 3 => c.p1
  | 4 => c.p2
  | 5 => c.p3
  | 6 => c.p4
  | 7 => c.p5
  | 8 => c.p6
  | 9 => c.p7
  | 10 => c.p8
  | 11 => c.p9

/-- `pair(k) = CALRAW[2k+1] : CALRAW[2k]` (40_calibration.md R121). -/
def calPair (raw : Vector Byte 24) (k : Fin 12) : BitVec 16 :=
  raw[2 * k.val + 1] ++ raw[2 * k.val]

/-- The twelve coefficients decoded from the staging bytes (40_calibration.md R121). -/
def decodeCoefs (raw : Vector Byte 24) : Coefs where
  t1 := calPair raw 0
  t2 := calPair raw 1
  t3 := calPair raw 2
  p1 := calPair raw 3
  p2 := calPair raw 4
  p3 := calPair raw 5
  p4 := calPair raw 6
  p5 := calPair raw 7
  p6 := calPair raw 8
  p7 := calPair raw 9
  p8 := calPair raw 10
  p9 := calPair raw 11

/-- `zext`: a register read as unsigned (00_scope.md R10). -/
def zext {n : Nat} (v : BitVec n) : Int := (v.toNat : Int)

/-- `sext`: a register read as two's complement (00_scope.md R10). -/
def sext {n : Nat} (v : BitVec n) : Int := v.toInt

/-- The ADC code of a raw register: bits 23:4, unsigned (41_temperature.md R130, 42_pressure.md R140). -/
def adcCode (raw : BitVec 24) : Int := zext (raw.extractLsb' 4 20)

end Sys2Proof.Machine
end

