-- ==== Sys2Proof/Machine/Ops.lean ====
section
/-! DEFINITION. The operations every instruction is built from: the bus primitives (20_memory.md section 4), the completion of a command
and its errors (30_encoding.md R103, 60_exceptions.md), the reset input, and what a step is to run. -/

namespace Sys2Proof.Machine

/-- The byte of the register at a location while BUSY = 0 (20_memory.md R77). -/
def readLoc (s : State) : Loc → Byte
  | .cmd => 0x00#8
  | .status => statusRead s.status
  | .err => errRead s.err
  | .rawT k => byteAt s.rawT k.val
  | .rawP k => byteAt s.rawP k.val
  | .calraw i => s.calraw[i.val]
  | .fineT k => byteAt s.fineT k.val
  | .tempC100 k => byteAt s.tempC100 k.val
  | .pressQ8 k => byteAt s.pressQ8 k.val
  | .coef i k => byteAt (coefReg s.coef i) k.val
  | .reserved => 0x00#8

/-- The effect of a host write at a location while BUSY = 0 (20_memory.md R71 to R76). -/
def writeLoc (s : State) (v : Byte) : Loc → State
  | .cmd => { s with pending := v, status := writeFlag s.status .busy true }
  | .rawT k => { s with rawT := setByteAt s.rawT k.val v, status := clearFineValid s.status }
  | .rawP k => { s with rawP := setByteAt s.rawP k.val v, status := clearPValid s.status }
  | .calraw i => { s with calraw := s.calraw.set i.val v, calWmask := s.calWmask ||| (1#24 <<< i.val) }
  | .status => s
  | .err => s
  | .fineT _ => s
  | .tempC100 _ => s
  | .pressQ8 _ => s
  | .coef _ _ => s
  | .reserved => s

/-- The byte at an offset of the register space, as a host read while BUSY = 0 returns it. -/
def readOff (s : State) (off : Byte) : Byte := readLoc s (locate off)

/-- `MemWrite(off, 1, v)`: while BUSY = 1 it has no effect (20_memory.md R71, R82). -/
def memWrite (s : State) (off v : Byte) : State :=
  if readFlag s.status .busy then s else writeLoc s v (locate off)

/-- `MemRead(off, 1)`: the byte goes to the host and nothing of CE changes (20_memory.md R77, R78). While BUSY = 1 the byte is a free value,
but for bit 0 of STATUS (R82). -/
def memRead (s : State) (off : Byte) : State :=
  if readFlag s.status .busy then
    match locate off with
    | .status => { s with reply := statusDraw (Config.freeByte s.draws), draws := s.draws + 1 }
    | _ => { s with reply := Config.freeByte s.draws, draws := s.draws + 1 }
  else { s with reply := readOff s off }

/-- The completion of a command, with ERR written: BUSY and PENDING are cleared as its last effect (10_state.md R34, R41; 30_encoding.md R103). -/
def complete (e : ErrCode) (s : State) : State :=
  { s with err := errByte e, status := writeFlag s.status .busy false, pending := 0x00#8 }

/-- The completion of a command from the end of its last stage: NONE, or the code raised (00_scope.md R16). -/
def Stage.finish : Stage → State
  | .done s => complete .none s
  | .raised e s => complete e s

/-- A stage after another: it is not performed after a raise (43_control.md R161). -/
def Stage.andThen (r : Stage) (f : State → Stage) : Stage :=
  match r with
  | .done s => f s
  | .raised e s => .raised e s

/-- A transport abort: the command performs nothing but the clearing it is given, and ends with TRANSPORT (60_exceptions.md R184). -/
def transportAbort (clear : State → State) (s : State) : State := complete .transport (clear s)

/-- An illegal command: ERR takes ILLEGAL_COMMAND and nothing else changes (30_encoding.md R107, 60_exceptions.md R188). -/
def illegalCommand (s : State) : State := complete .illegalCommand s

/-- The reset input (70_reset_and_hazards.md R200): every piece of CE's state takes its reset value. The model's own fields, which are not CE's,
stay (log entry 4). -/
def resetInput (s : State) : State :=
  { State.reset with reply := s.reply, draws := s.draws, inputs := s.inputs }

/-- The engine's turn: its one step is enabled exactly while BUSY = 1 and executes PENDING (00_scope.md R18, 10_state.md R50). -/
def engineTurn (s : State) : Fetched :=
  if readFlag s.status .busy then .run (decodeCmd s.pending) s else .quiet s

/-- What the next step runs, the input it takes removed: the oldest input moves, and the engine moves when there is none (log entry 1). -/
def fetch (s : State) : Fetched :=
  match s.inputs with
  | [] => engineTurn s
  | .engine :: rest => engineTurn { s with inputs := rest }
  | .reset :: rest => .quiet (resetInput { s with inputs := rest })
  | .bus w :: rest =>
    match decode (.bus w) with
    | .ok i => .run i { s with inputs := rest }
    | .error e => .rejected e

/-- The state in which the next step runs the given code: a command is pending and the engine moves next, or the transaction is the oldest input. -/
def placeCode (s : State) : Code → State
  | .cmd c => { s with pending := c, status := writeFlag s.status .busy true, inputs := .engine :: s.inputs }
  | .bus w => { s with inputs := .bus w :: s.inputs }

end Sys2Proof.Machine
end

