-- ==== Sys2Proof/Machine/Bus.lean ====
section
/-! DEFINITION. The host's bus transactions WR and RD (spec/20_memory.md section 4). -/

namespace Sys2Proof.Machine

/-- WR: `MemWrite(off, 1, data)` (20_memory.md R71, R82). -/
def execWr (off data : Byte) (s : State) : Host.Outcome State Fault Refusal := .next (memWrite s off data)

/-- RD: `MemRead(off, 1)` (20_memory.md R77, R82). -/
def execRd (off : Byte) (s : State) : Host.Outcome State Fault Refusal := .next (memRead s off)

end Sys2Proof.Machine
end

