-- ==== Sys2Proof/Machine/Calibration.lean ====
section
/-! DEFINITION. The calibration store: LOADCAL and its transport abort (spec/40_calibration.md). -/

namespace Sys2Proof.Machine

/-- The validation of a staged set (40_calibration.md R122): all 24 bytes written, T1 and P1 not zero. -/
def calibrationValid (mask : BitVec 24) (c : Coefs) : Bool :=
  mask == 0xFFFFFF#24 && c.t1 != 0#16 && c.p1 != 0#16

/-- The mask is cleared and the calibration invalidated, by every LOADCAL whatever its outcome (40_calibration.md R120, R123, R124). -/
def dropCalibration (s : State) : State :=
  { s with calWmask := 0#24, status := clearCalValid s.status }

/-- LOADCAL up to its ERR write (40_calibration.md R120). -/
def loadcalStage (s : State) : Stage :=
  if calibrationValid s.calWmask (decodeCoefs s.calraw) then
    .done { s with coef := decodeCoefs s.calraw, calWmask := 0#24, status := writeFlag (clearCalValid s.status) .calValid true }
  else .raised .invalidCalibration (dropCalibration s)

/-- LOADCAL (40_calibration.md R120). -/
def execLoadcal (s : State) : Host.Outcome State Fault Refusal := .next (loadcalStage s).finish

/-- LOADCAL with TERR: `CAL_WMASK <- 0; clear CAL_VALID` (60_exceptions.md R184). -/
def execLoadcalTerr (s : State) : Host.Outcome State Fault Refusal := .next (transportAbort dropCalibration s)

end Sys2Proof.Machine
end

