-- ==== Sys2Proof/Machine/Arith.lean ====
section
/-! DEFINITION. The arithmetic of the compensation datapath: exact integers, each checked against ACC_W signed bits
(00_scope.md R6, R10 to R13). -/

namespace Sys2Proof.Machine

/-- `-2^(ACC_W-1)` (00_scope.md R12). -/
def accMin : Int := -((2 ^ (Config.accW - 1) : Nat) : Int)

/-- `2^(ACC_W-1) - 1` (00_scope.md R12). -/
def accMax : Int := ((2 ^ (Config.accW - 1) : Nat) : Int) - 1

/-- `chk(v)`: v, or OVERFLOW when v does not fit ACC_W signed bits (00_scope.md R12). -/
def chk (v : Int) : Except ErrCode Int :=
  if v < accMin ∨ accMax < v then .error .overflow else .ok v

/-- `a << k`: `a * 2^k`, exact (00_scope.md R11). -/
def shl (a : Int) (k : Nat) : Int := a * ((2 ^ k : Nat) : Int)

/-- `a >> k`: the arithmetic right shift, `floor(a / 2^k)` (00_scope.md R11). -/
def asr (a : Int) (k : Nat) : Int := a >>> k

/-- `tdiv(a, b)`: division truncating toward zero (00_scope.md R13). -/
def tdiv (a b : Int) : Int := Int.tdiv a b

end Sys2Proof.Machine
end

