-- ==== Sys2Proof/Machine/Pressure.lean ====
section
/-! DEFINITION. The pressure calibrator: PRESS and its transport abort (spec/42_pressure.md). The pipeline of R141 is marked by the spec as
supplied from general knowledge (log entry 6). -/

namespace Sys2Proof.Machine

/-- Steps 1 to 5 of the pressure function and the `off` of step 6: the pair (v2c, off) (42_pressure.md R141). -/
def pressPolynomials (f p2 p3 p4 p5 p6 : Int) : Except ErrCode (Int × Int) := do
  -- step 1
  let v1a ← chk (f - 128000)
  -- step 2
  let sq ← chk (v1a * v1a)
  let v2a ← chk (sq * p6)
  -- step 3
  let m5 ← chk (v1a * p5)
  let s5 ← chk (shl m5 17)
  let v2b ← chk (v2a + s5)
  -- step 4
  let s4 ← chk (shl p4 35)
  let v2c ← chk (v2b + s4)
  -- step 5
  let m3 ← chk (sq * p3)
  let m2 ← chk (v1a * p2)
  let s2 ← chk (shl m2 12)
  let v1b ← chk (asr m3 8 + s2)
  -- step 6, its first sum
  let off ← chk (((2 ^ 47 : Nat) : Int) + v1b)
  pure (v2c, off)

/-- The rest of step 6: the denominator `den` (42_pressure.md R141). -/
def pressDenominator (off p1 : Int) : Except ErrCode Int := do
  let m1 ← chk (off * p1)
  pure (asr m1 33)

/-- Steps 7 and 8: the quotient `pb`, for a denominator that is not zero (42_pressure.md R141, R143). -/
def pressQuotient (adcP v2c den : Int) : Except ErrCode Int := do
  -- step 7
  let pa ← chk (1048576 - adcP)
  -- step 8
  let s31 ← chk (shl pa 31)
  let n0 ← chk (s31 - v2c)
  let num ← chk (n0 * 3125)
  pure (tdiv num den)

/-- Steps 9 to 11: the result (42_pressure.md R141). -/
def pressRefine (pb p7 p8 p9 : Int) : Except ErrCode Int := do
  -- step 9
  let q := asr pb 13
  let a1 ← chk (p9 * q)
  let a2 ← chk (a1 * q)
  let v1d := asr a2 25
  -- step 10
  let b1 ← chk (p8 * pb)
  let v2d := asr b1 19
  -- step 11
  let s1 ← chk (pb + v1d)
  let s2b ← chk (s1 + v2d)
  let s7 ← chk (shl p7 4)
  chk (asr s2b 8 + s7)

/-- The pressure function: an error when a `chk` fails, the sentinel when the denominator is zero (42_pressure.md R141, R142). -/
def pressure (adcP f p1 p2 p3 p4 p5 p6 p7 p8 p9 : Int) : Except ErrCode PressResult := do
  let (v2c, off) ← pressPolynomials f p2 p3 p4 p5 p6
  let den ← pressDenominator off p1
  if den = 0 then pure .sentinel
  else
    let pb ← pressQuotient adcP v2c den
    let r ← pressRefine pb p7 p8 p9
    pure (.value r)

/-- The pressure of a raw register and a fine temperature under the coefficient registers (42_pressure.md R140, R144). -/
def pressureOf (rawP : BitVec 24) (fineT : BitVec 32) (c : Coefs) : Except ErrCode PressResult :=
  pressure (adcCode rawP) (sext fineT) (zext c.p1) (sext c.p2) (sext c.p3) (sext c.p4) (sext c.p5) (sext c.p6) (sext c.p7) (sext c.p8) (sext c.p9)

/-- PRESS up to its ERR write (42_pressure.md R144; failure effects 60_exceptions.md R181). -/
def pressStage (s : State) : Stage :=
  if readFlag s.status .fineValid then
    match pressureOf s.rawP s.fineT s.coef with
    | .ok .sentinel => .done { s with pressQ8 := 0#64, status := writeFlag (writeFlag s.status .pValid true) .pSent true }
    | .ok (.value r) => .done { s with pressQ8 := BitVec.ofInt 64 r, status := writeFlag (writeFlag s.status .pValid true) .pSent false }
    | .error e => .raised e { s with status := clearPValid s.status }
  else .raised .noFineTemp s

/-- PRESS (42_pressure.md R144). -/
def execPress (s : State) : Host.Outcome State Fault Refusal := .next (pressStage s).finish

/-- PRESS with TERR: clear P_VALID (60_exceptions.md R184). -/
def execPressTerr (s : State) : Host.Outcome State Fault Refusal :=
  .next (transportAbort (fun s => { s with status := clearPValid s.status }) s)

end Sys2Proof.Machine
end

