-- ==== Sys2Proof/Machine/Temperature.lean ====
section
/-! DEFINITION. The temperature calibrator: FINET, TEMP and their transport aborts (spec/41_temperature.md). -/

namespace Sys2Proof.Machine

/-- The fine-temperature function, in the source's order, every product, sum, difference and left shift checked (41_temperature.md R131). -/
def fineTemp (adcT t1 t2 t3 : Int) : Except ErrCode Int := do
  let t1x2 ← chk (shl t1 1)
  let a ← chk (asr adcT 3 - t1x2)
  let m1 ← chk (a * t2)
  let var1 := asr m1 11
  let d ← chk (asr adcT 4 - t1)
  let sq ← chk (d * d)
  let m2 ← chk (asr sq 12 * t3)
  let var2 := asr m2 14
  chk (var1 + var2)

/-- The fine temperature of a raw register under the coefficient registers (41_temperature.md R130, R132). -/
def fineOf (rawT : BitVec 24) (c : Coefs) : Except ErrCode Int :=
  fineTemp (adcCode rawT) (zext c.t1) (sext c.t2) (sext c.t3)

/-- FINET up to its ERR write (41_temperature.md R132; failure effects 60_exceptions.md R181, log entry 7). -/
def finetStage (s : State) : Stage :=
  if readFlag s.status .calValid then
    match fineOf s.rawT s.coef with
    | .ok f => .done { s with fineT := BitVec.ofInt 32 f, status := writeFlag (clearFineValid s.status) .fineValid true }
    | .error e => .raised e { s with status := clearFineValid s.status }
  else .raised .notCalibrated s

/-- The temperature in hundredths of a degree Celsius (41_temperature.md R134). -/
def tempOf (f : Int) : Except ErrCode Int := do
  let f5 ← chk (f * 5)
  let r ← chk (f5 + 128)
  pure (asr r 8)

/-- TEMP up to its ERR write (41_temperature.md R135; failure effects 60_exceptions.md R181). -/
def tempStage (s : State) : Stage :=
  if readFlag s.status .fineValid then
    match tempOf (sext s.fineT) with
    | .ok t => .done { s with tempC100 := BitVec.ofInt 32 t, status := writeFlag s.status .tValid true }
    | .error e => .raised e { s with status := clearTValid s.status }
  else .raised .noFineTemp s

/-- FINET (41_temperature.md R132). -/
def execFinet (s : State) : Host.Outcome State Fault Refusal := .next (finetStage s).finish

/-- TEMP (41_temperature.md R135). -/
def execTemp (s : State) : Host.Outcome State Fault Refusal := .next (tempStage s).finish

/-- FINET with TERR: clear FINE_VALID (60_exceptions.md R184). -/
def execFinetTerr (s : State) : Host.Outcome State Fault Refusal :=
  .next (transportAbort (fun s => { s with status := clearFineValid s.status }) s)

/-- TEMP with TERR: clear T_VALID (60_exceptions.md R184). -/
def execTempTerr (s : State) : Host.Outcome State Fault Refusal :=
  .next (transportAbort (fun s => { s with status := clearTValid s.status }) s)

end Sys2Proof.Machine
end

