-- ==== Sys2Proof/Machine/Control.lean ====
section
/-! DEFINITION. NOP, COMP and their transport aborts (spec/43_control.md), and the illegal commands (30_encoding.md R107). -/

namespace Sys2Proof.Machine

/-- NOP: only ERR is written, besides the completion every command has (43_control.md R160). -/
def execNop (s : State) : Host.Outcome State Fault Refusal := .next (complete .none s)

/-- COMP up to its ERR write: the three stages in order, stopping at the first raise (43_control.md R161). -/
def compStage (s : State) : Stage := ((finetStage s).andThen tempStage).andThen pressStage

/-- COMP (43_control.md R161). -/
def execComp (s : State) : Host.Outcome State Fault Refusal := .next (compStage s).finish

/-- NOP with TERR: no effect but ERR (60_exceptions.md R184). -/
def execNopTerr (s : State) : Host.Outcome State Fault Refusal := .next (transportAbort id s)

/-- COMP with TERR: clear FINE_VALID (60_exceptions.md R184). -/
def execCompTerr (s : State) : Host.Outcome State Fault Refusal :=
  .next (transportAbort (fun s => { s with status := clearFineValid s.status }) s)

/-- RSV = 0, OP in 6..7 (30_encoding.md R107). -/
def execIllegalOp6 (s : State) : Host.Outcome State Fault Refusal := .next (illegalCommand s)

/-- RSV = 0, OP in 8..15 (30_encoding.md R107). -/
def execIllegalOp8 (s : State) : Host.Outcome State Fault Refusal := .next (illegalCommand s)

/-- RSV bit 4 set (30_encoding.md R107). -/
def execIllegalRsv4 (s : State) : Host.Outcome State Fault Refusal := .next (illegalCommand s)

/-- RSV bits 5:4 = 10 (30_encoding.md R107). -/
def execIllegalRsv5 (s : State) : Host.Outcome State Fault Refusal := .next (illegalCommand s)

/-- RSV bits 6:4 = 100 (30_encoding.md R107). -/
def execIllegalRsv6 (s : State) : Host.Outcome State Fault Refusal := .next (illegalCommand s)

end Sys2Proof.Machine
end

