-- ==== Sys2Proof/Machine/Dispatch.lean ====
section
/-! DEFINITION. The dispatch of an instruction to its meaning (30_encoding.md R103, R105). -/

namespace Sys2Proof.Machine

def exec (i : Instr) (s : State) : Host.Outcome State Fault Refusal :=
  match i with
  | .nop => Sys2Proof.Machine.execNop s
  | .loadcal => Sys2Proof.Machine.execLoadcal s
  | .finet => Sys2Proof.Machine.execFinet s
  | .temp => Sys2Proof.Machine.execTemp s
  | .press => Sys2Proof.Machine.execPress s
  | .comp => Sys2Proof.Machine.execComp s
  | .nopTerr => Sys2Proof.Machine.execNopTerr s
  | .loadcalTerr => Sys2Proof.Machine.execLoadcalTerr s
  | .finetTerr => Sys2Proof.Machine.execFinetTerr s
  | .tempTerr => Sys2Proof.Machine.execTempTerr s
  | .pressTerr => Sys2Proof.Machine.execPressTerr s
  | .compTerr => Sys2Proof.Machine.execCompTerr s
  | .illegalOp6 _ => Sys2Proof.Machine.execIllegalOp6 s
  | .illegalOp8 _ => Sys2Proof.Machine.execIllegalOp8 s
  | .illegalRsv4 _ => Sys2Proof.Machine.execIllegalRsv4 s
  | .illegalRsv5 _ => Sys2Proof.Machine.execIllegalRsv5 s
  | .illegalRsv6 _ => Sys2Proof.Machine.execIllegalRsv6 s
  | .wr off data => Sys2Proof.Machine.execWr off data s
  | .rd off => Sys2Proof.Machine.execRd off s

end Sys2Proof.Machine
end

