-- ==== Sys2Proof/Machine/Step.lean ====
section
/-! DEFINITION. One step of CE: one host transaction, one engine step or one reset (00_scope.md R18). -/

namespace Sys2Proof.Machine

/-- One atomic step of the model (00_scope.md R18): the instruction `fetch` finds is executed. -/
def step (s : State) : Host.Outcome State Fault Refusal :=
  match fetch s with
  | .run i t => exec i t
  | .quiet t => .next t
  | .rejected e => .refused (.notATransaction e)

/-- `s` with an instruction placed so that the next step runs it: a command byte pending with the engine to move, or a transaction as the oldest
input (log entry 5). -/
def State.withFetchWord (s : State) (nbits w : Nat) : State := placeCode s (codeOfTableWord nbits w)

end Sys2Proof.Machine
end

