-- ==== Sys2Proof/Machine/HostProgram.lean ====
section
/-! DEFINITION. The host's programs: the statements of 30_encoding.md R109, the expansions of R110, and a host that runs them against CE.
The control statements are the host's own: CE sees only their read transaction. Nothing of this layer is CE's state (10_state.md R31, R51). -/

namespace Sys2Proof.Machine

/-- The basic statements of 30_encoding.md R109, a label being the position of its statement in the program (log entry 12). -/
inductive HostStmt where
  | wr (off data : Byte)
  | rd (off : Byte)
  | jb (off : Byte) (bit : Fin 8) (label : Nat)
  | jnz (off : Byte) (label : Nat)
  | halt
deriving DecidableEq, Repr

/-- The operations a `CMD` statement can name (30_encoding.md R102). -/
inductive CmdOp where
  | nop | loadcal | finet | temp | press | comp
deriving DecidableEq, Repr

/-- A host program with the position of its next statement, and CE. -/
structure HostRun where
  prog : List HostStmt
  pos : Nat
  ce : State
deriving DecidableEq, Repr

/-- `OP(m)` (30_encoding.md R102). -/
def opCode : CmdOp → Byte
  | .nop => 0x00#8
  | .loadcal => 0x01#8
  | .finet => 0x02#8
  | .temp => 0x03#8
  | .press => 0x04#8
  | .comp => 0x05#8

/-- The BUS word of a statement: `0x10000 + off*256 + byte` for a write, `off*256` for a read, none for HALT (30_encoding.md R105, R109). -/
def stmtWord : HostStmt → Option BusWord
  | .wr off data => some (BitVec.ofNat 17 (0x10000 + off.toNat * 256 + data.toNat))
  | .rd off => some (BitVec.ofNat 17 (off.toNat * 256))
  | .jb off _ _ => some (BitVec.ofNat 17 (off.toNat * 256))
  | .jnz off _ => some (BitVec.ofNat 17 (off.toNat * 256))
  | .halt => none

/-- Where the host goes after a statement, given the byte its read returned (30_encoding.md R109). -/
def stmtNext (pos : Nat) (reply : Byte) : HostStmt → Nat
  | .wr _ _ => pos + 1
  | .rd _ => pos + 1
  | .jb _ bit label => if reply.getLsbD bit.val then label else pos + 1
  | .jnz _ label => if reply ≠ 0x00#8 then label else pos + 1
  | .halt => pos

/-- The host performs its next statement, as one step of CE. At HALT or past the end of its program it performs nothing. -/
def hostTurn (r : HostRun) : Host.Outcome HostRun Fault Refusal :=
  match r.prog[r.pos]? with
  | none => .next r
  | some st =>
    match stmtWord st with
    | none => .next r
    | some w =>
      match step { r.ce with inputs := .bus w :: r.ce.inputs } with
      | .next t => .next { r with ce := t, pos := stmtNext r.pos t.reply st }
      | .fault e => .fault e
      | .refused e => .refused e

/-- The engine takes its turn between two statements of the host (20_memory.md R85). -/
def hostWaits (r : HostRun) : Host.Outcome HostRun Fault Refusal :=
  match step { r.ce with inputs := .engine :: r.ce.inputs } with
  | .next t => .next { r with ce := t }
  | .fault e => .fault e
  | .refused e => .refused e

/-- `CMD m` and `CMD m, TERR` (30_encoding.md R110). -/
def cmdStmt (m : CmdOp) (terr : Bool) : List HostStmt :=
  [.wr 0x00#8 (if terr then opCode m ||| 0x80#8 else opCode m)]

/-- `WAIT` at position `pos` of the program: it polls BUSY and its fresh label is its own position. -/
def waitStmt (pos : Nat) : List HostStmt := [.jb 0x01#8 0 pos]

/-- `RUN m` at position `pos`: `CMD m` then `WAIT`. -/
def runStmt (pos : Nat) (m : CmdOp) : List HostStmt := cmdStmt m false ++ waitStmt (pos + 1)

/-- `WR16 off, v`; an offset past 0xFF goes on at 0x00 (DESIGN CHOICE, log entry 13). -/
def wr16Stmt (off : Byte) (v : BitVec 16) : List HostStmt :=
  [.wr off (byteAt v 0), .wr (off + 1) (byteAt v 1)]

/-- `WR24 off, v`; an offset past 0xFF goes on at 0x00 (DESIGN CHOICE, log entry 13). -/
def wr24Stmt (off : Byte) (v : BitVec 24) : List HostStmt :=
  [.wr off (byteAt v 0), .wr (off + 1) (byteAt v 1), .wr (off + 2) (byteAt v 2)]

/-- `RDn off` for n = 16, 32, 64: `count` = n/8 reads at ascending offsets; an offset past 0xFF goes on at 0x00 (DESIGN CHOICE, log entry 13). -/
def rdStmt (off : Byte) (count : Nat) : List HostStmt :=
  (List.range count).map fun k => .rd (off + BitVec.ofNat 8 k)

/-- The value a host assembles from the bytes of a register, least significant first (30_encoding.md R106). -/
def assembleBytes : List Byte → Nat
  | [] => 0
  | b :: rest => b.toNat + 256 * assembleBytes rest

/-- `SETRAWT c`: the 20-bit code shifted left by four. -/
def setRawTStmt (c : BitVec 20) : List HostStmt := wr24Stmt 0x04#8 (c ++ 0#4)

/-- `SETRAWP c`. -/
def setRawPStmt (c : BitVec 20) : List HostStmt := wr24Stmt 0x08#8 (c ++ 0#4)

/-- `SETCAL t1,t2,t3,p1,...,p9`: 24 writes at ascending offsets. -/
def setCalStmt (c : Coefs) : List HostStmt :=
  wr16Stmt 0x10#8 c.t1 ++ wr16Stmt 0x12#8 c.t2 ++ wr16Stmt 0x14#8 c.t3 ++ wr16Stmt 0x16#8 c.p1 ++
  wr16Stmt 0x18#8 c.p2 ++ wr16Stmt 0x1A#8 c.p3 ++ wr16Stmt 0x1C#8 c.p4 ++ wr16Stmt 0x1E#8 c.p5 ++
  wr16Stmt 0x20#8 c.p6 ++ wr16Stmt 0x22#8 c.p7 ++ wr16Stmt 0x24#8 c.p8 ++ wr16Stmt 0x26#8 c.p9

/-! The source's API as host sequences, each starting at position `pos` of the program (43_control.md R167; the boot sequence and the acquisition
cycle of 70_reset_and_hazards.md R202, R203 are built of them). -/

/-- `loadCalibration(reader)`, the 12 pairs having been read from the sensor. -/
def loadCalibrationSeq (pos : Nat) (c : Coefs) : List HostStmt := setCalStmt c ++ runStmt (pos + 24) .loadcal ++ [.rd 0x02#8]

/-- `computeFineTemperature(rawTemp, calib)`. -/
def computeFineTemperatureSeq (pos : Nat) (rawTemp : BitVec 20) : List HostStmt :=
  setRawTStmt rawTemp ++ runStmt (pos + 3) .finet ++ rdStmt 0x28#8 4

/-- `computeTemperature(fineTemp)`, of the fine temperature in FINE_T. -/
def computeTemperatureSeq (pos : Nat) : List HostStmt := runStmt pos .temp ++ rdStmt 0x2C#8 4

/-- `computePressure(rawPressure, fineTemp, calib)`. -/
def computePressureSeq (pos : Nat) (rawPressure : BitVec 20) : List HostStmt :=
  setRawPStmt rawPressure ++ runStmt (pos + 3) .press ++ rdStmt 0x30#8 8 ++ [.rd 0x01#8]

/-- `compensate(rawTempCode, rawPressureCode, calib)`. -/
def compensateSeq (pos : Nat) (rawTemp rawPressure : BitVec 20) : List HostStmt :=
  setRawTStmt rawTemp ++ setRawPStmt rawPressure ++ runStmt (pos + 6) .comp ++ [.rd 0x02#8] ++ rdStmt 0x2C#8 4 ++ rdStmt 0x30#8 8 ++ [.rd 0x01#8]

/-- A transport read failed: the command that would have used it is issued with TERR. -/
def transportFailedSeq (pos : Nat) (m : CmdOp) : List HostStmt := cmdStmt m true ++ waitStmt (pos + 1)

end Sys2Proof.Machine
end

