-- ==== Sys2Proof/Safety.lean ====
section
/-! DEFINITION. The terms claims about CE use: what a completed command leaves in STATUS, and what holds of every state a run reaches. -/

namespace Sys2Proof.Machine

/-- STATUS after a step, bit by bit as 10_state.md R33 numbers them; the reserved bits 7:6 are those of `old`. -/
structure StatusAfter (old new : Byte) (busy cal fine tv pv sent : Bool) : Prop where
  busy : new.getLsbD 0 = busy
  cal : new.getLsbD 1 = cal
  fine : new.getLsbD 2 = fine
  tv : new.getLsbD 3 = tv
  pv : new.getLsbD 4 = pv
  sent : new.getLsbD 5 = sent
  reserved6 : new.getLsbD 6 = old.getLsbD 6
  reserved7 : new.getLsbD 7 = old.getLsbD 7

/-- STATUS after a command that changes no flag: BUSY is 0 and every other bit is as it was. -/
def StatusIdle (old new : Byte) : Prop :=
  StatusAfter old new false (old.getLsbD 1) (old.getLsbD 2) (old.getLsbD 3) (old.getLsbD 4) (old.getLsbD 5)

/-- Outside the signed 64-bit range of the accumulators (00_scope.md R6, R12). -/
def outOfAcc (v : Int) : Bool := decide (v < -9223372036854775808 ∨ 9223372036854775807 < v)

/-- The instruction is one the engine executes, not a transaction of the host (30_encoding.md R100). -/
def isCommand : Instr → Bool
  | .nop | .loadcal | .finet | .temp | .press | .comp => true
  | .nopTerr | .loadcalTerr | .finetTerr | .tempTerr | .pressTerr | .compTerr => true
  | .illegalOp6 _ | .illegalOp8 _ | .illegalRsv4 _ | .illegalRsv5 _ | .illegalRsv6 _ => true
  | .wr _ _ => false
  | .rd _ => false

/-- The instruction is one of the five rows of illegal bytes (30_encoding.md R107). -/
def isIllegal : Instr → Bool
  | .illegalOp6 _ | .illegalOp8 _ | .illegalRsv4 _ | .illegalRsv5 _ | .illegalRsv6 _ => true
  | .nop | .loadcal | .finet | .temp | .press | .comp => false
  | .nopTerr | .loadcalTerr | .finetTerr | .tempTerr | .pressTerr | .compTerr => false
  | .wr _ _ => false
  | .rd _ => false

/-- The invariants of the registers: the implications of 10_state.md R40, the reserved bits of R33 and R41, PENDING while idle (R34), the
coefficients behind CAL_VALID (R35) and the ranges of the result registers (R46, R47). -/
structure State.Inv (s : State) : Prop where
  statusReserved : s.status.getLsbD 6 = false ∧ s.status.getLsbD 7 = false
  errCode : s.err.toNat ≤ 6
  idlePending : readFlag s.status .busy = false → s.pending = 0x00#8
  fineNeedsCal : readFlag s.status .fineValid = true → readFlag s.status .calValid = true
  tempNeedsFine : readFlag s.status .tValid = true → readFlag s.status .fineValid = true
  pressNeedsFine : readFlag s.status .pValid = true → readFlag s.status .fineValid = true
  sentNeedsPress : readFlag s.status .pSent = true → readFlag s.status .pValid = true
  sentIsZero : readFlag s.status .pSent = true → s.pressQ8 = 0#64
  calibrated : readFlag s.status .calValid = true → s.coef.t1 ≠ 0#16 ∧ s.coef.p1 ≠ 0#16
  fineRange : -4194145 ≤ s.fineT.toInt ∧ s.fineT.toInt ≤ 4194144
  tempRange : -81917 ≤ s.tempC100.toInt ∧ s.tempC100.toInt ≤ 81917

/-- No valid bit stands over a stale result: what 10_state.md R33 says FINE_VALID, T_VALID, P_VALID and P_SENT mean
(the common principle of 60_exceptions.md R181). -/
structure State.Fresh (s : State) : Prop where
  fine : readFlag s.status .fineValid = true → fineOf s.rawT s.coef = .ok (sext s.fineT)
  temp : readFlag s.status .tValid = true → tempOf (sext s.fineT) = .ok (sext s.tempC100)
  pressValue : readFlag s.status .pValid = true → readFlag s.status .pSent = false →
    pressureOf s.rawP s.fineT s.coef = .ok (.value (sext s.pressQ8))
  pressSentinel : readFlag s.status .pValid = true → readFlag s.status .pSent = true →
    pressureOf s.rawP s.fineT s.coef = .ok .sentinel

end Sys2Proof.Machine
end

