-- ==== Sys2Proof/Certificates/Slice0/Obligations.lean ====
section
/-! DEFINITION. The statements for the provers, from the numbered rules of spec/. Nothing is proved here.
`StatusAfter old new b0 b1 b2 b3 b4 b5` gives STATUS bit by bit (10_state.md R33): BUSY, CAL_VALID, FINE_VALID, T_VALID, P_VALID, P_SENT. -/

open Sys2Proof Sys2Proof.Machine

/-! ## Encoding -/

/-- No bit of an encoding is dropped: every well-formed instruction is read back from its own word. -/
def Obligations.DecodingAnEncodedInstructionGivesItBack : Prop :=
  ∀ i : Instr, i.wellFormed = true → decode (encode i) = .ok i

/-- Every word has one meaning: what the decoder reads is well formed, and its encoding is that word. -/
def Obligations.EncodingADecodedWordGivesItBack : Prop :=
  ∀ (w : Code) (i : Instr), decode w = .ok i → i.wellFormed = true ∧ encode i = w

/-- Words written out from 30_encoding.md R101, R102, R105 and R107. -/
def Obligations.WordsOfTheSpecDecodeAsWritten : Prop :=
  decode (.cmd 0b00000001#8) = .ok .loadcal ∧ decode (.cmd 0b00000010#8) = .ok .finet ∧ decode (.cmd 0b00000100#8) = .ok .press ∧
  decode (.cmd 0b00000101#8) = .ok .comp ∧ decode (.cmd 0b10000011#8) = .ok .tempTerr ∧
  decode (.cmd 0b10000110#8) = .ok (.illegalOp6 0x86#8) ∧ decode (.cmd 0b10010010#8) = .ok (.illegalRsv4 0x92#8) ∧
  decode (.bus 0x11070#17) = .ok (.wr 0x10#8 0x70#8) ∧ decode (.bus 0x00200#17) = .ok (.rd 0x02#8)

/-! ## The step -/

/-- Whenever BUSY = 1 and the engine is to move (its turn is the oldest input, or no input waits: log entry 1), the step executes what PENDING
decodes to. -/
def Obligations.EngineStepRunsThePendingCommand : Prop :=
  ∀ (s : State) (rest : List Input), readFlag s.status .busy = true →
    (s.inputs = [] → step s = exec (decodeCmd s.pending) s) ∧
    (s.inputs = .engine :: rest → step s = exec (decodeCmd s.pending) { s with inputs := rest })

/-- When the oldest input is a bus word that decodes to i, the step executes i, with that input taken. -/
def Obligations.HostStepRunsTheDecodedTransaction : Prop :=
  ∀ (s : State) (w : BusWord) (rest : List Input) (i : Instr), s.inputs = .bus w :: rest → decode (.bus w) = .ok i →
    step s = exec i { s with inputs := rest }

/-- The engine has no enabled step while BUSY = 0: its turn changes nothing of the machine (only the turn is taken off the inputs). -/
def Obligations.IdleEngineTurnChangesNothing : Prop :=
  ∀ (s : State) (rest : List Input), readFlag s.status .busy = false →
    (s.inputs = [] → step s = .next s) ∧ (s.inputs = .engine :: rest → step s = .next { s with inputs := rest })

/-- The machine never faults, and it refuses exactly the input words that are no transaction of R105: W = 0 with DATA other than 0x00. -/
def Obligations.StepStopsOnlyOnAWordThatIsNoTransaction : Prop :=
  ∀ s : State, (∀ f : Fault, step s ≠ .fault f) ∧
    ((∃ r : Refusal, step s = .refused r) ↔
      ∃ (w : BusWord) (rest : List Input), s.inputs = .bus w :: rest ∧ w.getLsbD 16 = false ∧ w.extractLsb' 0 8 ≠ 0x00#8)

/-! ## Reset -/

/-- 70_reset_and_hazards.md R200: in any state, BUSY or not, the reset input sets every piece of CE's state to its reset value. -/
def Obligations.ResetInputZeroesEveryRegister : Prop :=
  ∀ (s : State) (rest : List Input), s.inputs = .reset :: rest → ∃ t : State, step s = .next t ∧
    t.pending = 0x00#8 ∧ t.status = 0x00#8 ∧ t.err = 0x00#8 ∧ t.rawT = 0#24 ∧ t.rawP = 0#24 ∧
    (∀ (i : Nat) (h : i < 24), t.calraw[i] = 0x00#8) ∧ t.calWmask = 0#24 ∧
    t.coef.t1 = 0#16 ∧ t.coef.t2 = 0#16 ∧ t.coef.t3 = 0#16 ∧ t.coef.p1 = 0#16 ∧ t.coef.p2 = 0#16 ∧ t.coef.p3 = 0#16 ∧
    t.coef.p4 = 0#16 ∧ t.coef.p5 = 0#16 ∧ t.coef.p6 = 0#16 ∧ t.coef.p7 = 0#16 ∧ t.coef.p8 = 0#16 ∧ t.coef.p9 = 0#16 ∧
    t.fineT = 0#32 ∧ t.tempC100 = 0#32 ∧ t.pressQ8 = 0#64

/-! ## The bus -/

/-- 20_memory.md R72: a write to CMD while BUSY = 0 queues the byte and sets BUSY; it decodes nothing and changes no other state. -/
def Obligations.CmdWriteQueuesTheByte : Prop :=
  ∀ (s : State) (v : Byte), readFlag s.status .busy = false → ∃ t : State, exec (.wr 0x00#8 v) s = .next t ∧
    t = { s with pending := v, status := t.status } ∧
    StatusAfter s.status t.status true (s.status.getLsbD 1) (s.status.getLsbD 2) (s.status.getLsbD 3) (s.status.getLsbD 4) (s.status.getLsbD 5)

/-- 20_memory.md R73: a write to byte k of RAW_T while BUSY = 0 replaces that byte, keeps the other two, and clears FINE_VALID, T_VALID, P_VALID
and P_SENT. -/
def Obligations.RawTWriteReplacesTheByteAndClearsFine : Prop :=
  ∀ (s : State) (off v : Byte) (k : Nat), readFlag s.status .busy = false → k < 3 → off.toNat = 0x04 + k →
    ∃ t : State, exec (.wr off v) s = .next t ∧ t = { s with rawT := t.rawT, status := t.status } ∧
      (∀ j, j < 3 → t.rawT.extractLsb' (8 * j) 8 = if j = k then v else s.rawT.extractLsb' (8 * j) 8) ∧
      StatusAfter s.status t.status false (s.status.getLsbD 1) false false false false

/-- 20_memory.md R74: a write to byte k of RAW_P while BUSY = 0 replaces that byte, keeps the other two, and clears P_VALID and P_SENT only. -/
def Obligations.RawPWriteReplacesTheByteAndClearsPress : Prop :=
  ∀ (s : State) (off v : Byte) (k : Nat), readFlag s.status .busy = false → k < 3 → off.toNat = 0x08 + k →
    ∃ t : State, exec (.wr off v) s = .next t ∧ t = { s with rawP := t.rawP, status := t.status } ∧
      (∀ j, j < 3 → t.rawP.extractLsb' (8 * j) 8 = if j = k then v else s.rawP.extractLsb' (8 * j) 8) ∧
      StatusAfter s.status t.status false (s.status.getLsbD 1) (s.status.getLsbD 2) (s.status.getLsbD 3) false false

/-- 20_memory.md R75: a write to CALRAW[i] while BUSY = 0 replaces that byte and sets bit i of CAL_WMASK; the coefficient registers, STATUS and
everything else stay. -/
def Obligations.CalrawWriteStagesTheByte : Prop :=
  ∀ (s : State) (off v : Byte) (i : Nat), readFlag s.status .busy = false → i < 24 → off.toNat = 0x10 + i →
    ∃ t : State, exec (.wr off v) s = .next t ∧ t = { s with calraw := t.calraw, calWmask := t.calWmask } ∧
      (∀ (j : Nat) (h : j < 24), t.calraw[j] = if j = i then v else s.calraw[j]) ∧
      (∀ j, j < 24 → t.calWmask.getLsbD j = if j = i then true else s.calWmask.getLsbD j)

/-- 20_memory.md R76: a write to a read-only register or a reserved offset, that is to any offset but those of CMD, RAW_T, RAW_P and CALRAW, has no
effect and raises no error. -/
def Obligations.WriteElsewhereHasNoEffect : Prop :=
  ∀ (s : State) (off v : Byte), off.toNat ≠ 0x00 → ¬(0x04 ≤ off.toNat ∧ off.toNat ≤ 0x06) → ¬(0x08 ≤ off.toNat ∧ off.toNat ≤ 0x0A) →
    ¬(0x10 ≤ off.toNat ∧ off.toNat ≤ 0x27) → exec (.wr off v) s = .next s

/-- 20_memory.md R77: a read while BUSY = 0 changes no state of CE and returns the byte of the register at that offset, by the map of R83 and the
byte order of R79; reserved offsets and reserved bits read 0, and CMD reads 0x00. -/
def Obligations.IdleReadReturnsTheRegisterByte : Prop :=
  ∀ (s : State) (off : Byte), readFlag s.status .busy = false → ∃ t : State, exec (.rd off) s = .next t ∧
    t = { s with reply := t.reply } ∧
    (off.toNat = 0x00 → t.reply = 0x00#8) ∧
    (off.toNat = 0x01 → (∀ b, b < 6 → t.reply.getLsbD b = s.status.getLsbD b) ∧ t.reply.getLsbD 6 = false ∧ t.reply.getLsbD 7 = false) ∧
    (off.toNat = 0x02 → ∀ b, t.reply.getLsbD b = if b < 4 then s.err.getLsbD b else false) ∧
    (∀ k, k < 3 → off.toNat = 0x04 + k → t.reply = s.rawT.extractLsb' (8 * k) 8) ∧
    (∀ k, k < 3 → off.toNat = 0x08 + k → t.reply = s.rawP.extractLsb' (8 * k) 8) ∧
    (∀ (i : Nat) (h : i < 24), off.toNat = 0x10 + i → t.reply = s.calraw[i]) ∧
    (∀ k, k < 4 → off.toNat = 0x28 + k → t.reply = s.fineT.extractLsb' (8 * k) 8) ∧
    (∀ k, k < 4 → off.toNat = 0x2C + k → t.reply = s.tempC100.extractLsb' (8 * k) 8) ∧
    (∀ k, k < 8 → off.toNat = 0x30 + k → t.reply = s.pressQ8.extractLsb' (8 * k) 8) ∧
    (∀ (k j : Nat) (c : BitVec 16), j < 2 →
      [s.coef.t1, s.coef.t2, s.coef.t3, s.coef.p1, s.coef.p2, s.coef.p3, s.coef.p4, s.coef.p5, s.coef.p6, s.coef.p7, s.coef.p8, s.coef.p9][k]? = some c →
      off.toNat = 0x40 + 2 * k + j → t.reply = c.extractLsb' (8 * j) 8) ∧
    (off.toNat = 0x03 ∨ off.toNat = 0x07 ∨ (0x0B ≤ off.toNat ∧ off.toNat ≤ 0x0F) ∨ (0x38 ≤ off.toNat ∧ off.toNat ≤ 0x3F) ∨ 0x58 ≤ off.toNat →
      t.reply = 0x00#8)

/-- 20_memory.md R82: while BUSY = 1 every write has no effect; a STATUS read returns bit 0 = 1, bits 5:1 of a free byte and bits 7:6 = 0; every other
read returns a free byte; no read changes CE. The free byte is the model's `Config.freeByte` at its draw counter (log entry 3); nothing is said of its
value. -/
def Obligations.BusyAccessesAreDroppedOrDrawn : Prop :=
  ∀ (s : State) (off v : Byte), readFlag s.status .busy = true → exec (.wr off v) s = .next s ∧
    ∃ t : State, exec (.rd off) s = .next t ∧ t = { s with reply := t.reply, draws := s.draws + 1 } ∧
      (off = 0x01#8 → t.reply.getLsbD 0 = true ∧ t.reply.getLsbD 6 = false ∧ t.reply.getLsbD 7 = false ∧
        ∀ b, 1 ≤ b → b ≤ 5 → t.reply.getLsbD b = (Config.freeByte s.draws).getLsbD b) ∧
      (off ≠ 0x01#8 → t.reply = Config.freeByte s.draws)

/-- A byte written to RAW_T, RAW_P or CALRAW is read back, and every other offset but STATUS reads as before. -/
def Obligations.ReadAfterWriteOfAStoredByte : Prop :=
  ∀ (s : State) (off v : Byte), readFlag s.status .busy = false →
    ((0x04 ≤ off.toNat ∧ off.toNat ≤ 0x06) ∨ (0x08 ≤ off.toNat ∧ off.toNat ≤ 0x0A) ∨ (0x10 ≤ off.toNat ∧ off.toNat ≤ 0x27)) →
    ∃ t : State, exec (.wr off v) s = .next t ∧ exec (.rd off) t = .next { t with reply := v } ∧
      ∀ a : Byte, a ≠ off → a ≠ 0x01#8 → exec (.rd a) t = .next { t with reply := readOff s a }

/-- The bytes of a result register, least significant first, make up the register: RDn of 30_encoding.md R110 by the order of R79 and R106. -/
def Obligations.ResultRegistersAssembleFromTheirBytes : Prop :=
  ∀ s : State, assembleBytes ((List.range 4).map fun k => readOff s (0x28#8 + BitVec.ofNat 8 k)) = s.fineT.toNat ∧
    assembleBytes ((List.range 4).map fun k => readOff s (0x2C#8 + BitVec.ofNat 8 k)) = s.tempC100.toNat ∧
    assembleBytes ((List.range 8).map fun k => readOff s (0x30#8 + BitVec.ofNat 8 k)) = s.pressQ8.toNat

/-! ## Commands without arithmetic -/

/-- 43_control.md R160: NOP, byte 0x00, writes ERR and, as every command, ends BUSY and PENDING; nothing else changes. NOP with TERR gives
TRANSPORT. Last clause: its worked example. -/
def Obligations.NopClearsErrAndNothingElse : Prop :=
  decode (.cmd 0x00#8) = .ok .nop ∧ decode (.cmd 0x80#8) = .ok .nopTerr ∧
  (∀ s : State, ∃ t : State, exec .nop s = .next t ∧ t = { s with err := 0x00#8, pending := 0x00#8, status := t.status } ∧ StatusIdle s.status t.status) ∧
  (∀ s : State, ∃ t : State, exec .nopTerr s = .next t ∧ t.err = 0x02#8) ∧
  (∀ s : State, s.err = 0x05#8 → s.status = 0x0F#8 → ∃ t : State, exec .nop s = .next t ∧ t.err = 0x00#8 ∧ t.status = 0x0E#8)

/-- 60_exceptions.md R188: any command byte with CMD[6:4] != 0 or CMD[3:0] >= 6, whatever TERR is, sets ERR to ILLEGAL_COMMAND (6) and changes
nothing else (but for BUSY and PENDING, which every completion clears). -/
def Obligations.IllegalCommandChangesOnlyErr : Prop :=
  ∀ (c : Byte) (s : State), c.extractLsb' 4 3 ≠ 0#3 ∨ 6 ≤ (c.extractLsb' 0 4).toNat →
    ∃ t : State, exec (decodeCmd c) s = .next t ∧ t = { s with err := 0x06#8, pending := 0x00#8, status := t.status } ∧ StatusIdle s.status t.status

/-- Each of the five rows of illegal bytes (30_encoding.md R107), on its own: ERR takes 6 and nothing else changes. -/
def Obligations.EveryIllegalRowChangesOnlyErr : Prop :=
  ∀ (i : Instr) (s : State), isIllegal i = true →
    ∃ t : State, exec i s = .next t ∧ t = { s with err := 0x06#8, pending := 0x00#8, status := t.status } ∧ StatusIdle s.status t.status

/-- 60_exceptions.md R184: a legal byte with TERR = 1 performs only its transport abort and sets ERR to TRANSPORT (2), whatever the state. -/
def Obligations.TransportAbortClearsOnlyItsOwnResults : Prop :=
  (decode (.cmd 0x80#8) = .ok .nopTerr ∧ decode (.cmd 0x81#8) = .ok .loadcalTerr ∧ decode (.cmd 0x82#8) = .ok .finetTerr ∧
    decode (.cmd 0x83#8) = .ok .tempTerr ∧ decode (.cmd 0x84#8) = .ok .pressTerr ∧ decode (.cmd 0x85#8) = .ok .compTerr) ∧
  ∀ s : State,
    (∃ t : State, exec .nopTerr s = .next t ∧ t = { s with err := 0x02#8, pending := 0x00#8, status := t.status } ∧ StatusIdle s.status t.status) ∧
    (∃ t : State, exec .loadcalTerr s = .next t ∧ t = { s with err := 0x02#8, pending := 0x00#8, calWmask := 0#24, status := t.status } ∧
      StatusAfter s.status t.status false false false false false false) ∧
    (∃ t : State, exec .finetTerr s = .next t ∧ t = { s with err := 0x02#8, pending := 0x00#8, status := t.status } ∧
      StatusAfter s.status t.status false (s.status.getLsbD 1) false false false false) ∧
    (∃ t : State, exec .tempTerr s = .next t ∧ t = { s with err := 0x02#8, pending := 0x00#8, status := t.status } ∧
      StatusAfter s.status t.status false (s.status.getLsbD 1) (s.status.getLsbD 2) false (s.status.getLsbD 4) (s.status.getLsbD 5)) ∧
    (∃ t : State, exec .pressTerr s = .next t ∧ t = { s with err := 0x02#8, pending := 0x00#8, status := t.status } ∧
      StatusAfter s.status t.status false (s.status.getLsbD 1) (s.status.getLsbD 2) (s.status.getLsbD 3) false false) ∧
    (∃ t : State, exec .compTerr s = .next t ∧ t = { s with err := 0x02#8, pending := 0x00#8, status := t.status } ∧
      StatusAfter s.status t.status false (s.status.getLsbD 1) false false false false)

/-! ## The calibration store -/

/-- LOADCAL on a valid staged set (40_calibration.md R120, R121, R122, R124): all 24 bytes written since the last LOADCAL or reset, T1 and P1 not
zero. The twelve coefficient registers take the little-endian pairs, CAL_VALID is set, every result is invalidated, the mask is cleared and ERR is
NONE. -/
def Obligations.LoadcalLoadsAValidSet : Prop :=
  ∀ s : State, s.calWmask = 0xFFFFFF#24 → s.calraw[1] ++ s.calraw[0] ≠ 0x0000#16 → s.calraw[7] ++ s.calraw[6] ≠ 0x0000#16 →
    ∃ t : State, exec .loadcal s = .next t ∧
      t = { s with coef := t.coef, calWmask := 0#24, err := 0x00#8, pending := 0x00#8, status := t.status } ∧
      StatusAfter s.status t.status false true false false false false ∧
      t.coef.t1 = s.calraw[1] ++ s.calraw[0] ∧ t.coef.t2 = s.calraw[3] ++ s.calraw[2] ∧ t.coef.t3 = s.calraw[5] ++ s.calraw[4] ∧
      t.coef.p1 = s.calraw[7] ++ s.calraw[6] ∧ t.coef.p2 = s.calraw[9] ++ s.calraw[8] ∧ t.coef.p3 = s.calraw[11] ++ s.calraw[10] ∧
      t.coef.p4 = s.calraw[13] ++ s.calraw[12] ∧ t.coef.p5 = s.calraw[15] ++ s.calraw[14] ∧ t.coef.p6 = s.calraw[17] ++ s.calraw[16] ∧
      t.coef.p7 = s.calraw[19] ++ s.calraw[18] ∧ t.coef.p8 = s.calraw[21] ++ s.calraw[20] ∧ t.coef.p9 = s.calraw[23] ++ s.calraw[22]

/-- 40_calibration.md R123: when a byte was not written, or the decoded T1 or P1 is zero, LOADCAL sets ERR to INVALID_CALIBRATION (1), clears CAL_VALID
and every result bit and the mask; the coefficient registers and everything else keep their values. -/
def Obligations.LoadcalRejectsAnInvalidSet : Prop :=
  ∀ s : State, s.calWmask ≠ 0xFFFFFF#24 ∨ s.calraw[1] ++ s.calraw[0] = 0x0000#16 ∨ s.calraw[7] ++ s.calraw[6] = 0x0000#16 →
    ∃ t : State, exec .loadcal s = .next t ∧
      t = { s with calWmask := 0#24, err := 0x01#8, pending := 0x00#8, status := t.status } ∧
      StatusAfter s.status t.status false false false false false false

/-- A second LOADCAL with no staging write between fails, whatever the first did: the mask was cleared (40_calibration.md R120, corner cases). -/
def Obligations.SecondLoadcalWithoutStagingFails : Prop :=
  ∀ s t : State, exec .loadcal s = .next t → ∃ u : State, exec .loadcal t = .next u ∧ u.err = 0x01#8 ∧ u.coef = t.coef ∧
    readFlag u.status .calValid = false

/-- No instruction but LOADCAL writes a coefficient register, and no instruction but LOADCAL sets CAL_VALID (10_state.md R35, R45). -/
def Obligations.OnlyLoadcalWritesTheCoefficients : Prop :=
  ∀ (i : Instr) (s t : State), exec i s = .next t → i ≠ .loadcal →
    t.coef = s.coef ∧ (readFlag t.status .calValid = true → readFlag s.status .calValid = true)

/-! ## The temperature calibrator -/

/-- 41_temperature.md R131: the fine temperature is the exact formula with floor division by powers of two, and OVERFLOW exactly when one of the checked
intermediates leaves the accumulator. -/
def Obligations.FineTemperatureIsTheCheckedFormula : Prop :=
  ∀ adcT t1 t2 t3 : Int,
    let t1x2 := t1 * 2
    let a := adcT / 8 - t1x2
    let m1 := a * t2
    let d := adcT / 16 - t1
    let sq := d * d
    let m2 := sq / 4096 * t3
    let r := m1 / 2048 + m2 / 16384
    fineTemp adcT t1 t2 t3 = if [t1x2, a, m1, d, sq, m2, r].any outOfAcc then .error .overflow else .ok r

/-- 41_temperature.md R133: over the whole input domain no check fails and the fine temperature lies in [-4194145, 4194144], so it fits FINE_T. -/
def Obligations.FineTemperatureNeverOverflows : Prop :=
  ∀ (raw : BitVec 24) (c : Coefs), c.t1 ≠ 0#16 → ∃ f : Int, fineOf raw c = .ok f ∧ -4194145 ≤ f ∧ f ≤ 4194144 ∧ (BitVec.ofInt 32 f).toInt = f

/-- 41_temperature.md R132: FINET, byte 0x02 (0x82 is its abort). With CAL_VALID = 0 only ERR changes, to NOT_CALIBRATED (3). With CAL_VALID = 1 the
fine temperature of RAW_T[23:4] under T1 (unsigned), T2 and T3 (signed) goes to FINE_T, FINE_VALID is set and the older results are invalidated. That
computation never raises OVERFLOW, whatever the registers hold. Last clause: the worked example. -/
def Obligations.FinetComputesTheFineTemperature : Prop :=
  decode (.cmd 0x02#8) = .ok .finet ∧ decode (.cmd 0x82#8) = .ok .finetTerr ∧
  (∀ s : State, readFlag s.status .calValid = false → ∃ t : State, exec .finet s = .next t ∧
    t = { s with err := 0x03#8, pending := 0x00#8, status := t.status } ∧ StatusIdle s.status t.status) ∧
  (∀ (s : State) (f : Int), readFlag s.status .calValid = true →
    fineTemp (s.rawT.extractLsb' 4 20).toNat s.coef.t1.toNat s.coef.t2.toInt s.coef.t3.toInt = .ok f →
    ∃ t : State, exec .finet s = .next t ∧
      t = { s with fineT := t.fineT, err := 0x00#8, pending := 0x00#8, status := t.status } ∧ t.fineT.toInt = f ∧
      StatusAfter s.status t.status false true true false false false) ∧
  (∀ (raw : BitVec 24) (c : Coefs), ∃ f : Int, fineTemp (raw.extractLsb' 4 20).toNat c.t1.toNat c.t2.toInt c.t3.toInt = .ok f) ∧
  fineTemp 519888 27504 26435 (-1000) = .ok 128422

/-- FINET completes with ERR = NONE from every state with CAL_VALID = 1, whatever RAW_T and the coefficients hold (41_temperature.md R132, R133). -/
def Obligations.FinetSucceedsWheneverCalibrated : Prop :=
  ∀ s : State, readFlag s.status .calValid = true → ∃ t : State, exec .finet s = .next t ∧ t.err = 0x00#8 ∧
    readFlag t.status .fineValid = true ∧ fineOf s.rawT s.coef = .ok t.fineT.toInt

/-- 41_temperature.md R134: the temperature is floor((5f + 128) / 256), and OVERFLOW exactly when 5f or 5f + 128 leaves the accumulator. -/
def Obligations.TemperatureIsTheCheckedFormula : Prop :=
  ∀ f : Int, tempOf f = if [f * 5, f * 5 + 128].any outOfAcc then .error .overflow else .ok ((f * 5 + 128) / 256)

/-- 41_temperature.md R135: TEMP, byte 0x03 (0x83 is its abort). With FINE_VALID = 0 only ERR changes, to NO_FINE_TEMP (4). With FINE_VALID = 1,
TEMP_C100 takes floor((5 FINE_T + 128) / 256) and T_VALID is set; no other flag changes. Last clause: the worked example. -/
def Obligations.TempComputesTheTemperature : Prop :=
  decode (.cmd 0x03#8) = .ok .temp ∧ decode (.cmd 0x83#8) = .ok .tempTerr ∧
  (∀ s : State, readFlag s.status .fineValid = false → ∃ t : State, exec .temp s = .next t ∧
    t = { s with err := 0x04#8, pending := 0x00#8, status := t.status } ∧ StatusIdle s.status t.status) ∧
  (∀ s : State, readFlag s.status .fineValid = true → ∃ t : State, exec .temp s = .next t ∧
    t = { s with tempC100 := t.tempC100, err := 0x00#8, pending := 0x00#8, status := t.status } ∧
    t.tempC100.toInt = (s.fineT.toInt * 5 + 128) / 256 ∧
    StatusAfter s.status t.status false (s.status.getLsbD 1) true true (s.status.getLsbD 4) (s.status.getLsbD 5)) ∧
  tempOf 128422 = .ok 2508

/-! ## The pressure calibrator -/

/-- 42_pressure.md R141 (the pipeline the spec supplies): the pressure function is the exact formula, with floor shifts and a truncating division; OVERFLOW
exactly when an intermediate of steps 1 to 6, or, with a denominator other than zero, of steps 7 to 11, leaves the accumulator; SENTINEL when the
denominator is zero. -/
def Obligations.PressureIsTheCheckedFormula : Prop :=
  ∀ adcP f p1 p2 p3 p4 p5 p6 p7 p8 p9 : Int,
    let v1a := f - 128000
    let sq := v1a * v1a
    let v2a := sq * p6
    let m5 := v1a * p5
    let s5 := m5 * 131072
    let v2b := v2a + s5
    let s4 := p4 * 34359738368
    let v2c := v2b + s4
    let m3 := sq * p3
    let m2 := v1a * p2
    let s2 := m2 * 4096
    let v1b := m3 / 256 + s2
    let off := 140737488355328 + v1b
    let m1 := off * p1
    let den := m1 / 8589934592
    let pa := 1048576 - adcP
    let s31 := pa * 2147483648
    let n0 := s31 - v2c
    let num := n0 * 3125
    let pb := Int.tdiv num den
    let q := pb / 8192
    let a1 := p9 * q
    let a2 := a1 * q
    let b1 := p8 * pb
    let s1 := pb + a2 / 33554432
    let s2b := s1 + b1 / 524288
    let s7 := p7 * 16
    let r := s2b / 256 + s7
    pressure adcP f p1 p2 p3 p4 p5 p6 p7 p8 p9 =
      if [v1a, sq, v2a, m5, s5, v2b, s4, v2c, m3, m2, s2, v1b, off, m1].any outOfAcc then .error .overflow
      else if den = 0 then .ok .sentinel
      else if [pa, s31, n0, num, a1, a2, b1, s1, s2b, s7, r].any outOfAcc then .error .overflow
      else .ok (.value r)

/-- 42_pressure.md R145, consequence (a): over the whole domain steps 1 to 5, the sum of step 6, step 7 (pa) and the shift s31 and difference n0 of step 8
never overflow (the pipeline is the supplied one: log entry 6). -/
def Obligations.EarlyPressureStepsNeverOverflow : Prop :=
  ∀ (adcP f : Int) (p2 p3 p4 p5 p6 : BitVec 16), 0 ≤ adcP → adcP ≤ 1048575 → -4194145 ≤ f → f ≤ 4194144 →
    ∃ v2c off : Int, pressPolynomials f p2.toInt p3.toInt p4.toInt p5.toInt p6.toInt = .ok (v2c, off) ∧
      -631825761575010304 ≤ v2c ∧ v2c ≤ 631807612790060351 ∧ -2830513277456512 ≤ off ∧ off ≤ 3111932985261365 ∧
      outOfAcc (1048576 - adcP) = false ∧ outOfAcc ((1048576 - adcP) * 2147483648) = false ∧ outOfAcc ((1048576 - adcP) * 2147483648 - v2c) = false

/-- 42_pressure.md R142: the denominator is zero exactly when 0 <= off * P1 < 2^33; a negative product gives a negative denominator. -/
def Obligations.DenominatorIsZeroExactlyBelowTwoToThe33 : Prop :=
  ∀ off p1 den : Int, pressDenominator off p1 = .ok den →
    (den = 0 ↔ 0 ≤ off * p1 ∧ off * p1 < 8589934592) ∧ (off * p1 < 0 ↔ den ≤ -1)

/-- 00_scope.md R13: `tdiv` truncates toward zero. -/
def Obligations.TdivTruncatesTowardZero : Prop :=
  ∀ a b : Int, b ≠ 0 → (tdiv a b).natAbs = a.natAbs / b.natAbs ∧
    (tdiv a b < 0 ↔ ((a < 0 ∧ 0 < b) ∨ (0 < a ∧ b < 0)) ∧ b.natAbs ≤ a.natAbs) ∧ (a.natAbs < b.natAbs → tdiv a b = 0)

/-- 42_pressure.md R144: PRESS, byte 0x04 (0x84 is its abort). With FINE_VALID = 0 only ERR changes, to NO_FINE_TEMP (4). With FINE_VALID = 1 the pressure
function of RAW_P[23:4], FINE_T and the coefficients decides: a value goes to PRESS_Q8 with P_VALID = 1, P_SENT = 0; the sentinel leaves PRESS_Q8 = 0 with both bits
set; an overflow clears both and leaves PRESS_Q8, with ERR 5. Last clause: the worked example, 25767233 (90_conflicts.md C2). -/
def Obligations.PressComputesThePressure : Prop :=
  decode (.cmd 0x04#8) = .ok .press ∧ decode (.cmd 0x84#8) = .ok .pressTerr ∧
  (∀ s : State, readFlag s.status .fineValid = false → ∃ t : State, exec .press s = .next t ∧
    t = { s with err := 0x04#8, pending := 0x00#8, status := t.status } ∧ StatusIdle s.status t.status) ∧
  (∀ (s : State) (p : Except ErrCode PressResult), readFlag s.status .fineValid = true →
    p = pressure (s.rawP.extractLsb' 4 20).toNat s.fineT.toInt s.coef.p1.toNat s.coef.p2.toInt s.coef.p3.toInt s.coef.p4.toInt s.coef.p5.toInt
      s.coef.p6.toInt s.coef.p7.toInt s.coef.p8.toInt s.coef.p9.toInt →
    ∃ t : State, exec .press s = .next t ∧ t = { s with pressQ8 := t.pressQ8, err := t.err, pending := 0x00#8, status := t.status } ∧
      (∀ r : Int, p = .ok (.value r) → t.pressQ8.toInt = r ∧ t.err = 0x00#8 ∧
        StatusAfter s.status t.status false (s.status.getLsbD 1) true (s.status.getLsbD 3) true false) ∧
      (p = .ok .sentinel → t.pressQ8 = 0#64 ∧ t.err = 0x00#8 ∧
        StatusAfter s.status t.status false (s.status.getLsbD 1) true (s.status.getLsbD 3) true true) ∧
      (∀ e : ErrCode, p = .error e → t.pressQ8 = s.pressQ8 ∧ t.err = 0x05#8 ∧
        StatusAfter s.status t.status false (s.status.getLsbD 1) true (s.status.getLsbD 3) false false)) ∧
  pressure 415148 128422 36477 (-10685) 3024 2855 140 (-7) 15500 (-14600) 6000 = .ok (.value 25767233)

/-- 60_exceptions.md R189: the sentinel is not an error. PRESS, and COMP at its PRESS stage, complete with ERR = NONE, PRESS_Q8 = 0, P_VALID = 1 and
P_SENT = 1. -/
def Obligations.SentinelIsASuccess : Prop :=
  (∀ s : State, readFlag s.status .fineValid = true → pressureOf s.rawP s.fineT s.coef = .ok .sentinel →
    ∃ t : State, exec .press s = .next t ∧ t.err = 0x00#8 ∧ t.pressQ8 = 0#64 ∧ readFlag t.status .pValid = true ∧ readFlag t.status .pSent = true) ∧
  (∀ (s : State) (f : Int), readFlag s.status .calValid = true → fineOf s.rawT s.coef = .ok f →
    pressureOf s.rawP (BitVec.ofInt 32 f) s.coef = .ok .sentinel →
    ∃ t : State, exec .comp s = .next t ∧ t.err = 0x00#8 ∧ t.pressQ8 = 0#64 ∧ readFlag t.status .pValid = true ∧ readFlag t.status .pSent = true)

/-- 60_exceptions.md R187 and 41_temperature.md R133, R136: a command that ends with OVERFLOW is PRESS whose pressure function overflows, or COMP whose FINET
stage gives a fine temperature and whose PRESS stage overflows on it; FINET and TEMP never overflow. -/
def Obligations.OverflowComesOnlyFromThePressureStage : Prop :=
  ∀ (i : Instr) (s : State), isCommand i = true → ∃ t : State, exec i s = .next t ∧ (t.err = 0x05#8 →
    (i = .press ∧ pressureOf s.rawP s.fineT s.coef = .error .overflow) ∨
    (i = .comp ∧ ∃ f : Int, fineOf s.rawT s.coef = .ok f ∧ pressureOf s.rawP (BitVec.ofInt 32 f) s.coef = .error .overflow))

/-! ## COMP -/

/-- 43_control.md R161: COMP, byte 0x05 (0x85 is its abort), runs the three stages in order. With CAL_VALID = 0 only ERR changes. Otherwise FINE_T and TEMP_C100
are new and valid, and the PRESS stage decides the rest: a value, the sentinel, or an overflow that keeps the two earlier stages. -/
def Obligations.CompRunsTheThreeStages : Prop :=
  decode (.cmd 0x05#8) = .ok .comp ∧ decode (.cmd 0x85#8) = .ok .compTerr ∧
  (∀ s : State, readFlag s.status .calValid = false → ∃ t : State, exec .comp s = .next t ∧
    t = { s with err := 0x03#8, pending := 0x00#8, status := t.status } ∧ StatusIdle s.status t.status) ∧
  (∀ (s : State) (f : Int), readFlag s.status .calValid = true → fineOf s.rawT s.coef = .ok f →
    ∃ t : State, exec .comp s = .next t ∧
      t = { s with fineT := t.fineT, tempC100 := t.tempC100, pressQ8 := t.pressQ8, err := t.err, pending := 0x00#8, status := t.status } ∧
      t.fineT.toInt = f ∧ t.tempC100.toInt = (f * 5 + 128) / 256 ∧
      (∀ r : Int, pressureOf s.rawP t.fineT s.coef = .ok (.value r) → t.pressQ8.toInt = r ∧ t.err = 0x00#8 ∧
        StatusAfter s.status t.status false true true true true false) ∧
      (pressureOf s.rawP t.fineT s.coef = .ok .sentinel → t.pressQ8 = 0#64 ∧ t.err = 0x00#8 ∧
        StatusAfter s.status t.status false true true true true true) ∧
      (∀ e : ErrCode, pressureOf s.rawP t.fineT s.coef = .error e → t.pressQ8 = s.pressQ8 ∧ t.err = 0x05#8 ∧
        StatusAfter s.status t.status false true true true false false))

/-- 43_control.md R162: COMP has the effect of FINET, TEMP and PRESS run one after another, stopping at the first nonzero ERR. -/
def Obligations.CompEqualsTheSequenceOfItsCommands : Prop :=
  ∀ s : State, ∃ a b c : State, exec .finet s = .next a ∧ exec .temp a = .next b ∧ exec .press b = .next c ∧
    exec .comp s = .next (if a.err ≠ 0x00#8 then a else if b.err ≠ 0x00#8 then b else c)

/-! ## Errors -/

/-- 60_exceptions.md R185: with CAL_VALID = 0, FINET and COMP end with NOT_CALIBRATED (3) and nothing else changes. -/
def Obligations.UncalibratedCommandsChangeOnlyErr : Prop :=
  ∀ (s : State) (i : Instr), readFlag s.status .calValid = false → i = .finet ∨ i = .comp →
    ∃ t : State, exec i s = .next t ∧ t = { s with err := 0x03#8, pending := 0x00#8, status := t.status } ∧ StatusIdle s.status t.status

/-- 60_exceptions.md R186: with FINE_VALID = 0, TEMP and PRESS end with NO_FINE_TEMP (4) and nothing else changes. -/
def Obligations.CommandsWithoutFineTemperatureChangeOnlyErr : Prop :=
  ∀ (s : State) (i : Instr), readFlag s.status .fineValid = false → i = .temp ∨ i = .press →
    ∃ t : State, exec i s = .next t ∧ t = { s with err := 0x04#8, pending := 0x00#8, status := t.status } ∧ StatusIdle s.status t.status

/-! ## Whole-machine rules -/

/-- Every command completes, from every state: BUSY and PENDING are cleared, ERR holds a code of R182, and what only the host writes stays
(30_encoding.md R103, R104; 10_state.md R34, R41 to R44). -/
def Obligations.EveryCommandCompletesAndLeavesTheInputs : Prop :=
  ∀ (i : Instr) (s : State), isCommand i = true → ∃ t : State, exec i s = .next t ∧
    readFlag t.status .busy = false ∧ t.pending = 0x00#8 ∧ t.err.toNat ≤ 6 ∧
    t.status.getLsbD 6 = s.status.getLsbD 6 ∧ t.status.getLsbD 7 = s.status.getLsbD 7 ∧
    t.rawT = s.rawT ∧ t.rawP = s.rawP ∧ t.calraw = s.calraw ∧ t.reply = s.reply ∧ t.draws = s.draws ∧ t.inputs = s.inputs

/-- A valid bit is set only by its own stage: FINE_VALID by FINET and COMP, T_VALID by TEMP and COMP, P_VALID and P_SENT by PRESS and COMP, BUSY by a write to
CMD (10_state.md R33, R36 to R39). The result registers are written by no other instruction either. -/
def Obligations.EveryValidBitIsSetOnlyByItsStage : Prop :=
  ∀ (i : Instr) (s t : State), exec i s = .next t →
    (readFlag s.status .fineValid = false ∧ readFlag t.status .fineValid = true ∨ t.fineT ≠ s.fineT → i = .finet ∨ i = .comp) ∧
    (readFlag s.status .tValid = false ∧ readFlag t.status .tValid = true ∨ t.tempC100 ≠ s.tempC100 → i = .temp ∨ i = .comp) ∧
    (readFlag s.status .pValid = false ∧ readFlag t.status .pValid = true ∨ t.pressQ8 ≠ s.pressQ8 → i = .press ∨ i = .comp) ∧
    (readFlag s.status .pSent = false ∧ readFlag t.status .pSent = true → i = .press ∨ i = .comp) ∧
    (readFlag s.status .busy = false ∧ readFlag t.status .busy = true → ∃ v : Byte, i = .wr 0x00#8 v)

/-- While a command is pending, host transactions leave all of CE as it is, so the command reads the inputs of the time of the CMD write
(20_memory.md R82, R85). -/
def Obligations.BusyHostTrafficLeavesCeAlone : Prop :=
  ∀ (s t : State) (w : BusWord) (rest : List Input), readFlag s.status .busy = true → s.inputs = .bus w :: rest → step s = .next t →
    t = { s with inputs := rest, reply := t.reply, draws := t.draws }

/-- From any state with BUSY = 1 whose waiting words are all transactions, BUSY = 0 is reached within one step more than there are inputs waiting. Where no
reset waits, the state reached is the one the pending command answers, on the CE of now (only the model's own fields have moved on, k inputs being taken);
a reset discards a pending command (70_reset_and_hazards.md R200). That the engine moves once no input waits is the model's form of the fairness of
R206 (log entry 1). -/
def Obligations.APendingCommandCompletesUnlessReset : Prop :=
  ∀ s : State, readFlag s.status .busy = true → (∀ w : BusWord, .bus w ∈ s.inputs → ∃ i : Instr, decode (.bus w) = .ok i) →
    ∃ (k : Nat) (t : State), k ≤ s.inputs.length + 1 ∧ Sys2Proof.core.run k s = .next t ∧ readFlag t.status .busy = false ∧
      (.reset ∉ s.inputs → ∃ u : State, u = { s with reply := u.reply, draws := u.draws, inputs := s.inputs.drop k } ∧
        exec (decodeCmd s.pending) u = .next t)

/-- Issuing a command again on the state it left changes nothing more, for every command but LOADCAL (43_control.md R170; 41_temperature.md R132;
42_pressure.md R144). -/
def Obligations.RepeatedCommandsAreIdempotent : Prop :=
  ∀ (i : Instr) (s : State), isCommand i = true → i ≠ .loadcal → ∃ t : State, exec i s = .next t ∧ exec i t = .next t

/-- FINET's result depends on RAW_T[23:4], T1 to T3 and CAL_VALID alone (30_encoding.md R104, 10_state.md R42). -/
def Obligations.FinetDependsOnlyOnItsOperands : Prop :=
  ∀ s u : State, s.rawT.extractLsb' 4 20 = u.rawT.extractLsb' 4 20 → s.coef.t1 = u.coef.t1 → s.coef.t2 = u.coef.t2 → s.coef.t3 = u.coef.t3 →
    readFlag s.status .calValid = readFlag u.status .calValid →
    ∃ t v : State, exec .finet s = .next t ∧ exec .finet u = .next v ∧ t.err = v.err ∧ (t.err = 0x00#8 → t.fineT = v.fineT)

/-- PRESS's result depends on RAW_P[23:4], FINE_T, P1 to P9 and FINE_VALID alone (30_encoding.md R104, 10_state.md R43). -/
def Obligations.PressDependsOnlyOnItsOperands : Prop :=
  ∀ s u : State, s.rawP.extractLsb' 4 20 = u.rawP.extractLsb' 4 20 → s.fineT = u.fineT →
    { s.coef with t1 := 0, t2 := 0, t3 := 0 } = { u.coef with t1 := 0, t2 := 0, t3 := 0 } →
    readFlag s.status .fineValid = readFlag u.status .fineValid →
    ∃ t v : State, exec .press s = .next t ∧ exec .press u = .next v ∧ t.err = v.err ∧
      (t.err = 0x00#8 → t.pressQ8 = v.pressQ8 ∧ readFlag t.status .pSent = readFlag v.status .pSent)

/-- The state after reset meets the invariants. -/
def Obligations.ResetStateMeetsTheInvariants : Prop := State.reset.Inv ∧ State.reset.Fresh

/-- Every step keeps the invariants of the registers: the implications of 10_state.md R40, the reserved bits, the coefficients behind CAL_VALID and the
ranges of FINE_T and TEMP_C100 (R46, R47). -/
def Obligations.EveryStepKeepsTheRegisterInvariants : Prop :=
  ∀ s t : State, s.Inv → step s = .next t → t.Inv

/-- Every step keeps every valid bit true to its meaning (10_state.md R33): FINE_T is computed from the current RAW_T and coefficients, TEMP_C100 from the
current FINE_T, PRESS_Q8 from the current RAW_P and FINE_T. -/
def Obligations.NoValidBitStandsOverAStaleResult : Prop :=
  ∀ s t : State, s.Fresh → step s = .next t → t.Fresh

/-! ## The host's statements -/

/-- 30_encoding.md R109: what CE sees of a host statement is its one transaction. WR writes; RD, JB and JNZ read; JB goes to its label when the bit of the
byte read is 1, JNZ when the byte is not zero; HALT is the end. -/
def Obligations.HostStatementsPerformTheirTransaction : Prop :=
  ∀ (r : HostRun) (off v : Byte) (b : Fin 8) (l : Nat) (t u : State), exec (.wr off v) r.ce = .next t → exec (.rd off) r.ce = .next u →
    (r.prog[r.pos]? = some (.wr off v) → hostTurn r = .next { r with ce := t, pos := r.pos + 1 }) ∧
    (r.prog[r.pos]? = some (.rd off) → hostTurn r = .next { r with ce := u, pos := r.pos + 1 }) ∧
    (r.prog[r.pos]? = some (.jb off b l) → hostTurn r = .next { r with ce := u, pos := if u.reply.getLsbD b = true then l else r.pos + 1 }) ∧
    (r.prog[r.pos]? = some (.jnz off l) → hostTurn r = .next { r with ce := u, pos := if u.reply = 0x00#8 then r.pos + 1 else l }) ∧
    (r.prog[r.pos]? = some .halt → hostTurn r = .next r)
end

