-- ==== Sys2Proof/Laws/Arith.lean ====
section
/-! SUPPORT. What the checked arithmetic does, on integers. -/

namespace Sys2Proof.Machine

theorem accMin_eq : accMin = -9223372036854775808 := by decide

theorem accMax_eq : accMax = 9223372036854775807 := by decide

/-- The right shift is floor division by a power of two. -/
theorem asr_eq_ediv (a : Int) (k : Nat) : asr a k = a / ((2 ^ k : Nat) : Int) := Int.shiftRight_eq_div_pow a k

/-- `chk` by its range test. -/
theorem chk_eq (v : Int) : chk v = if outOfAcc v = true then .error .overflow else .ok v := by
  simp [chk, outOfAcc, accMin_eq, accMax_eq]

/-- `chk` passes a value of the accumulator's range unchanged. -/
theorem chk_ok {v : Int} (h : -9223372036854775808 ≤ v ∧ v ≤ 9223372036854775807) : chk v = .ok v := by
  have : ¬(v < -9223372036854775808 ∨ 9223372036854775807 < v) := by omega
  simp [chk_eq, outOfAcc, this]

/-- A value that passed `chk` is unchanged and in range. -/
theorem chk_eq_ok_iff {v w : Int} : chk v = .ok w ↔ w = v ∧ -9223372036854775808 ≤ v ∧ v ≤ 9223372036854775807 := by
  by_cases h : v < -9223372036854775808 ∨ 9223372036854775807 < v
  · simp only [chk_eq, outOfAcc, h, decide_true, if_true, reduceCtorEq, false_iff]
    omega
  · simp only [chk_eq, outOfAcc, h, decide_false, Bool.false_eq_true, if_false, Except.ok.injEq]
    constructor
    · intro e; exact ⟨e.symm, by omega, by omega⟩
    · exact fun e => e.1.symm

/-- The only error of `chk` is OVERFLOW. -/
theorem chk_error {v : Int} {e : ErrCode} (h : chk v = .error e) : e = .overflow := by
  rw [chk_eq] at h
  split at h <;> simp_all

/-- Where a checked computation that answers a value went through. -/
theorem bind_eq_ok {α β : Type} {x : Except ErrCode α} {f : α → Except ErrCode β} {b : β} :
    (x >>= f) = .ok b ↔ ∃ a, x = .ok a ∧ f a = .ok b := by
  cases x <;> simp [bind, Except.bind]

/-- Where a checked computation that raises an error raised it. -/
theorem bind_eq_error {α β : Type} {x : Except ErrCode α} {f : α → Except ErrCode β} {e : ErrCode} :
    (x >>= f) = .error e ↔ x = .error e ∨ ∃ a, x = .ok a ∧ f a = .error e := by
  cases x <;> simp [bind, Except.bind]

/-- A computation after a value is the rest of it. -/
theorem ok_bind {α β : Type} (a : α) (f : α → Except ErrCode β) : ((.ok a : Except ErrCode α) >>= f) = f a := rfl

/-- A value of a register's signed range is read back from the register. -/
theorem toInt_ofInt_32 {v : Int} (h : -2147483648 ≤ v ∧ v ≤ 2147483647) : (BitVec.ofInt 32 v).toInt = v := by
  rw [BitVec.toInt_ofInt, Int.bmod_eq_of_le] <;> norm_num <;> omega

theorem toInt_ofInt_64 {v : Int} (h : -9223372036854775808 ≤ v ∧ v ≤ 9223372036854775807) : (BitVec.ofInt 64 v).toInt = v := by
  rw [BitVec.toInt_ofInt, Int.bmod_eq_of_le] <;> norm_num <;> omega

end Sys2Proof.Machine
end

