-- ==== Sys2Proof/Laws/Flags.lean ====
section
/-! SUPPORT. STATUS bit by bit: what each flag operation leaves in every bit. Bits are spelled as simp spells them, `st[k]`; the
`getLsbD` form of each lemma is for a bit number that is a variable. -/

namespace Sys2Proof.Machine

theorem readFlag_eq (st : Byte) (f : Flag) : readFlag st f = st.getLsbD (flagBit f) := rfl

@[simp] theorem readFlag_busy (st : Byte) : readFlag st .busy = st[0] := rfl
@[simp] theorem readFlag_calValid (st : Byte) : readFlag st .calValid = st[1] := rfl
@[simp] theorem readFlag_fineValid (st : Byte) : readFlag st .fineValid = st[2] := rfl
@[simp] theorem readFlag_tValid (st : Byte) : readFlag st .tValid = st[3] := rfl
@[simp] theorem readFlag_pValid (st : Byte) : readFlag st .pValid = st[4] := rfl
@[simp] theorem readFlag_pSent (st : Byte) : readFlag st .pSent = st[5] := rfl

/-- Writing a flag changes its bit of STATUS and no other. -/
theorem getLsbD_writeFlag (st : Byte) (f : Flag) (b : Bool) (k : Nat) :
    (writeFlag st f b).getLsbD k = if k = flagBit f then b else st.getLsbD k := by
  have hf : flagBit f < 8 := by cases f <;> decide
  by_cases hk : k < 8
  · cases b <;> by_cases h : k = flagBit f <;> simp [writeFlag, flagMask, h, hk, hf] <;> try omega
  · have : k ≠ flagBit f := by omega
    simp [this, BitVec.getLsbD_of_ge _ _ (Nat.le_of_not_lt hk)]

@[simp] theorem getElem_writeFlag (st : Byte) (f : Flag) (b : Bool) (k : Nat) (hk : k < 8) :
    (writeFlag st f b)[k] = if k = flagBit f then b else st[k] := by
  simpa [← BitVec.getLsbD_eq_getElem] using getLsbD_writeFlag st f b k

/-- A flag written is read back, and every other flag reads as before. -/
theorem readFlag_writeFlag (st : Byte) (f g : Flag) (b : Bool) :
    readFlag (writeFlag st f b) g = if g = f then b else readFlag st g := by
  cases f <;> cases g <;> simp [readFlag_eq, flagBit]

theorem getLsbD_clearPValid (st : Byte) (k : Nat) :
    (clearPValid st).getLsbD k = if k = 4 ∨ k = 5 then false else st.getLsbD k := by
  by_cases h4 : k = 4 <;> by_cases h5 : k = 5 <;> simp [clearPValid, getLsbD_writeFlag, flagBit, h4, h5]

@[simp] theorem getElem_clearPValid (st : Byte) (k : Nat) (hk : k < 8) :
    (clearPValid st)[k] = if k = 4 ∨ k = 5 then false else st[k] := by
  simpa [← BitVec.getLsbD_eq_getElem] using getLsbD_clearPValid st k

theorem getLsbD_clearTValid (st : Byte) (k : Nat) :
    (clearTValid st).getLsbD k = if k = 3 then false else st.getLsbD k :=
  getLsbD_writeFlag st .tValid false k

@[simp] theorem getElem_clearTValid (st : Byte) (k : Nat) (hk : k < 8) :
    (clearTValid st)[k] = if k = 3 then false else st[k] := by
  simpa [← BitVec.getLsbD_eq_getElem] using getLsbD_clearTValid st k

theorem getLsbD_clearFineValid (st : Byte) (k : Nat) :
    (clearFineValid st).getLsbD k = if 2 ≤ k ∧ k ≤ 5 then false else st.getLsbD k := by
  rcases Nat.lt_or_ge k 8 with hk | hk
  · interval_cases k <;> simp [clearFineValid, flagBit]
  · simp [BitVec.getLsbD_of_ge _ _ hk]

@[simp] theorem getElem_clearFineValid (st : Byte) (k : Nat) (hk : k < 8) :
    (clearFineValid st)[k] = if 2 ≤ k ∧ k ≤ 5 then false else st[k] := by
  simpa [← BitVec.getLsbD_eq_getElem] using getLsbD_clearFineValid st k

theorem getLsbD_clearCalValid (st : Byte) (k : Nat) :
    (clearCalValid st).getLsbD k = if 1 ≤ k ∧ k ≤ 5 then false else st.getLsbD k := by
  rcases Nat.lt_or_ge k 8 with hk | hk
  · interval_cases k <;> simp [clearCalValid, flagBit]
  · simp [BitVec.getLsbD_of_ge _ _ hk]

@[simp] theorem getElem_clearCalValid (st : Byte) (k : Nat) (hk : k < 8) :
    (clearCalValid st)[k] = if 1 ≤ k ∧ k ≤ 5 then false else st[k] := by
  simpa [← BitVec.getLsbD_eq_getElem] using getLsbD_clearCalValid st k

/-- Two status bytes with the same eight bits are equal. -/
theorem status_ext {a b : Byte} (h : ∀ k, k < 8 → a.getLsbD k = b.getLsbD k) : a = b :=
  BitVec.eq_of_getLsbD_eq fun k hk => h k hk

/-- Writing the value a flag has changes nothing. -/
theorem writeFlag_self (st : Byte) (f : Flag) : writeFlag st f (readFlag st f) = st := by
  refine status_ext fun k _ => ?_
  by_cases h : k = flagBit f <;> simp [getLsbD_writeFlag, readFlag_eq, h]

/-- A completion alone clears BUSY and no other bit. -/
theorem statusIdle_writeFlag_busy (st : Byte) : StatusIdle st (writeFlag st .busy false) := by
  constructor <;> simp [flagBit]

theorem errByte_le (e : ErrCode) : (errByte e).toNat ≤ 6 := by cases e <;> decide

@[simp] theorem errByte_eq_zero_iff (e : ErrCode) : errByte e = 0x00#8 ↔ e = .none := by cases e <;> decide

/-- The codes of ERR are distinct. -/
theorem errByte_injective {a b : ErrCode} (h : errByte a = errByte b) : a = b := by
  cases a <;> cases b <;> first | rfl | (exact absurd h (by decide))

/-- Reserved bits of a STATUS read are 0 and bits 5:0 are those of STATUS. -/
theorem getLsbD_statusRead (st : Byte) (k : Nat) : (statusRead st).getLsbD k = (st.getLsbD k && decide (k < 6)) := by
  rcases Nat.lt_or_ge k 8 with hk | hk
  · interval_cases k <;> simp [statusRead]
  · simp [BitVec.getLsbD_of_ge _ _ hk]

/-- Bits 7:4 of an ERR read are 0 and bits 3:0 are those of ERR. -/
theorem getLsbD_errRead (e : Byte) (k : Nat) : (errRead e).getLsbD k = (e.getLsbD k && decide (k < 4)) := by
  rcases Nat.lt_or_ge k 8 with hk | hk
  · interval_cases k <;> simp [errRead]
  · simp [BitVec.getLsbD_of_ge _ _ hk]

/-- A drawn STATUS has bit 0 set, bits 5:1 of the draw and bits 7:6 clear. -/
theorem getLsbD_statusDraw (d : Byte) (k : Nat) (hk : k < 8) :
    (statusDraw d).getLsbD k = if k = 0 then true else if k ≤ 5 then d.getLsbD k else false := by
  interval_cases k <;> simp [statusDraw]

end Sys2Proof.Machine
end

