-- ==== Sys2Proof/Laws/Operands.lean ====
section
/-! SUPPORT. The register map and the bytes of a register. -/

namespace Sys2Proof.Machine

/-- A bit of a byte of a register is the register's bit. -/
theorem getLsbD_byteAt {n : Nat} (v : BitVec n) (k b : Nat) (hb : b < 8) : (byteAt v k).getLsbD b = v.getLsbD (8 * k + b) := by
  simp [byteAt, hb]

/-- A bit of a register with byte k replaced. -/
theorem getLsbD_setByteAt {n : Nat} (v : BitVec n) (k : Nat) (b : Byte) (j : Nat) (hj : j < n) :
    (setByteAt v k b).getLsbD j = if 8 * k ≤ j ∧ j < 8 * k + 8 then b.getLsbD (j - 8 * k) else v.getLsbD j := by
  by_cases h : j < 8 * k
  · have : ¬(8 * k ≤ j) := by omega
    simp [setByteAt, hj, h, this]
  · by_cases h2 : j < 8 * k + 8
    · have e1 : j - 8 * k < 8 := by omega
      have e2 : j - 8 * k < n := by omega
      have : (0xFF#8).getLsbD (j - 8 * k) = true := by
        have : j - 8 * k < 8 := e1
        interval_cases (j - 8 * k) <;> decide
      have hle : 8 * k ≤ j := by omega
      simp [setByteAt, hj, h, h2, hle, this]
    · have e1 : 8 ≤ j - 8 * k := by omega
      have e3 : (0xFF#8).getLsbD (j - 8 * k) = false := BitVec.getLsbD_of_ge _ _ e1
      have e4 : b.getLsbD (j - 8 * k) = false := BitVec.getLsbD_of_ge _ _ e1
      simp [setByteAt, hj, h, h2, e3, e4]

/-- The byte written is read back, and every other byte of the register is as it was. -/
theorem byteAt_setByteAt {n : Nat} (v : BitVec n) (k j : Nat) (b : Byte) (hk : 8 * k + 8 ≤ n) (hj : 8 * j + 8 ≤ n) :
    byteAt (setByteAt v k b) j = if j = k then b else byteAt v j := by
  refine BitVec.eq_of_getLsbD_eq fun i hi => ?_
  rw [getLsbD_byteAt _ _ _ hi, getLsbD_setByteAt _ _ _ _ (by omega)]
  by_cases h : j = k
  · subst h
    have : 8 * j ≤ 8 * j + i ∧ 8 * j + i < 8 * j + 8 := by omega
    simp [this]
  · have : ¬(8 * k ≤ 8 * j + i ∧ 8 * j + i < 8 * k + 8) := by omega
    simp [this, h, getLsbD_byteAt _ _ _ hi]

/-- The register map read backwards: which offsets a location has. -/
theorem locate_cases (off : Byte) :
    (off.toNat = 0 ∧ locate off = .cmd) ∨ (off.toNat = 1 ∧ locate off = .status) ∨ (off.toNat = 2 ∧ locate off = .err) ∨
    (∃ k : Fin 3, off.toNat = 4 + k.val ∧ locate off = .rawT k) ∨ (∃ k : Fin 3, off.toNat = 8 + k.val ∧ locate off = .rawP k) ∨
    (∃ i : Fin 24, off.toNat = 16 + i.val ∧ locate off = .calraw i) ∨ (∃ k : Fin 4, off.toNat = 40 + k.val ∧ locate off = .fineT k) ∨
    (∃ k : Fin 4, off.toNat = 44 + k.val ∧ locate off = .tempC100 k) ∨ (∃ k : Fin 8, off.toNat = 48 + k.val ∧ locate off = .pressQ8 k) ∨
    (∃ (i : Fin 12) (k : Fin 2), off.toNat = 64 + 2 * i.val + k.val ∧ locate off = .coef i k) ∨
    ((off.toNat = 3 ∨ off.toNat = 7 ∨ (11 ≤ off.toNat ∧ off.toNat ≤ 15) ∨ (56 ≤ off.toNat ∧ off.toNat ≤ 63) ∨ 88 ≤ off.toNat) ∧
      locate off = .reserved) := by
  unfold locate locateNat
  by_cases h0 : off.toNat = 0x00
  · exact .inl ⟨h0, by rw [if_pos h0]⟩
  by_cases h1 : off.toNat = 0x01
  · exact .inr (.inl ⟨h1, by rw [if_neg h0, if_pos h1]⟩)
  by_cases h2 : off.toNat = 0x02
  · exact .inr (.inr (.inl ⟨h2, by rw [if_neg h0, if_neg h1, if_pos h2]⟩))
  by_cases h3 : 0x04 ≤ off.toNat ∧ off.toNat ≤ 0x06
  · exact .inr (.inr (.inr (.inl ⟨⟨off.toNat - 4, by omega⟩, by dsimp only; omega, by rw [if_neg h0, if_neg h1, if_neg h2, dif_pos h3]⟩)))
  by_cases h4 : 0x08 ≤ off.toNat ∧ off.toNat ≤ 0x0A
  · exact .inr (.inr (.inr (.inr (.inl ⟨⟨off.toNat - 8, by omega⟩, by dsimp only; omega, by rw [if_neg h0, if_neg h1, if_neg h2, dif_neg h3, dif_pos h4]⟩))))
  by_cases h5 : 0x10 ≤ off.toNat ∧ off.toNat ≤ 0x27
  · exact .inr (.inr (.inr (.inr (.inr (.inl ⟨⟨off.toNat - 16, by omega⟩, by dsimp only; omega, by rw [if_neg h0, if_neg h1, if_neg h2, dif_neg h3, dif_neg h4, dif_pos h5]⟩)))))
  by_cases h6 : 0x28 ≤ off.toNat ∧ off.toNat ≤ 0x2B
  · exact .inr (.inr (.inr (.inr (.inr (.inr (.inl ⟨⟨off.toNat - 40, by omega⟩, by dsimp only; omega, by rw [if_neg h0, if_neg h1, if_neg h2, dif_neg h3, dif_neg h4, dif_neg h5, dif_pos h6]⟩))))))
  by_cases h7 : 0x2C ≤ off.toNat ∧ off.toNat ≤ 0x2F
  · exact .inr (.inr (.inr (.inr (.inr (.inr (.inr (.inl ⟨⟨off.toNat - 44, by omega⟩, by dsimp only; omega, by rw [if_neg h0, if_neg h1, if_neg h2, dif_neg h3, dif_neg h4, dif_neg h5, dif_neg h6, dif_pos h7]⟩)))))))
  by_cases h8 : 0x30 ≤ off.toNat ∧ off.toNat ≤ 0x37
  · exact .inr (.inr (.inr (.inr (.inr (.inr (.inr (.inr (.inl ⟨⟨off.toNat - 48, by omega⟩, by dsimp only; omega, by rw [if_neg h0, if_neg h1, if_neg h2, dif_neg h3, dif_neg h4, dif_neg h5, dif_neg h6, dif_neg h7, dif_pos h8]⟩))))))))
  by_cases h9 : 0x40 ≤ off.toNat ∧ off.toNat ≤ 0x57
  · exact .inr (.inr (.inr (.inr (.inr (.inr (.inr (.inr (.inr (.inl ⟨⟨(off.toNat - 64) / 2, by omega⟩, ⟨(off.toNat - 64) % 2, by omega⟩, by dsimp only; omega, by rw [if_neg h0, if_neg h1, if_neg h2, dif_neg h3, dif_neg h4, dif_neg h5, dif_neg h6, dif_neg h7, dif_neg h8, dif_pos h9]⟩)))))))))
  exact .inr (.inr (.inr (.inr (.inr (.inr (.inr (.inr (.inr (.inr (⟨by omega, by rw [if_neg h0, if_neg h1, if_neg h2, dif_neg h3, dif_neg h4, dif_neg h5, dif_neg h6, dif_neg h7, dif_neg h8, dif_neg h9]⟩))))))))))

/-- The offsets of the registers a host writes, read forwards. -/
theorem locate_rawT {off : Byte} {k : Nat} (hk : k < 3) (h : off.toNat = 0x04 + k) : locate off = .rawT ⟨k, hk⟩ := by
  unfold locate locateNat
  rw [if_neg (by omega), if_neg (by omega), if_neg (by omega), dif_pos (by omega)]
  exact congrArg Loc.rawT (Fin.ext (by dsimp only; omega))

theorem locate_rawP {off : Byte} {k : Nat} (hk : k < 3) (h : off.toNat = 0x08 + k) : locate off = .rawP ⟨k, hk⟩ := by
  unfold locate locateNat
  rw [if_neg (by omega), if_neg (by omega), if_neg (by omega), dif_neg (by omega), dif_pos (by omega)]
  exact congrArg Loc.rawP (Fin.ext (by dsimp only; omega))

theorem locate_calraw {off : Byte} {i : Nat} (hi : i < 24) (h : off.toNat = 0x10 + i) : locate off = .calraw ⟨i, hi⟩ := by
  unfold locate locateNat
  rw [if_neg (by omega), if_neg (by omega), if_neg (by omega), dif_neg (by omega), dif_neg (by omega), dif_pos (by omega)]
  exact congrArg Loc.calraw (Fin.ext (by dsimp only; omega))

/-- Two offsets with one location other than a reserved one are equal: no register byte has two addresses. -/
theorem locate_injective {a b : Byte} (h : locate a = locate b) (hr : locate a ≠ .reserved) : a = b := by
  apply BitVec.eq_of_toNat_eq
  rcases locate_cases a with ha | ha | ha | ⟨k, ha⟩ | ⟨k, ha⟩ | ⟨k, ha⟩ | ⟨k, ha⟩ | ⟨k, ha⟩ | ⟨k, ha⟩ | ⟨i, k, ha⟩ | ha <;>
  rcases locate_cases b with hb | hb | hb | ⟨l, hb⟩ | ⟨l, hb⟩ | ⟨l, hb⟩ | ⟨l, hb⟩ | ⟨l, hb⟩ | ⟨l, hb⟩ | ⟨j, l, hb⟩ | hb <;>
  rw [ha.2, hb.2] at h <;> first | (exact absurd ha.2 hr) | (cases h)
  all_goals omega

end Sys2Proof.Machine
end

