-- ==== Sys2Proof/Laws/State.lean ====
section
/-! SUPPORT. One lemma per field for the shared updates of State, true by rfl, so that no proof unfolds them. -/

namespace Sys2Proof.Machine

section Complete

variable (e : ErrCode) (s : State)

@[simp] theorem complete_status : (complete e s).status = writeFlag s.status .busy false := rfl
@[simp] theorem complete_err : (complete e s).err = errByte e := rfl
@[simp] theorem complete_rawT : (complete e s).rawT = s.rawT := rfl
@[simp] theorem complete_rawP : (complete e s).rawP = s.rawP := rfl
@[simp] theorem complete_calraw : (complete e s).calraw = s.calraw := rfl
@[simp] theorem complete_coef : (complete e s).coef = s.coef := rfl
@[simp] theorem complete_fineT : (complete e s).fineT = s.fineT := rfl
@[simp] theorem complete_tempC100 : (complete e s).tempC100 = s.tempC100 := rfl
@[simp] theorem complete_pressQ8 : (complete e s).pressQ8 = s.pressQ8 := rfl
@[simp] theorem complete_calWmask : (complete e s).calWmask = s.calWmask := rfl
@[simp] theorem complete_pending : (complete e s).pending = 0x00#8 := rfl
@[simp] theorem complete_reply : (complete e s).reply = s.reply := rfl
@[simp] theorem complete_draws : (complete e s).draws = s.draws := rfl
@[simp] theorem complete_inputs : (complete e s).inputs = s.inputs := rfl

end Complete

section DropCalibration

variable (s : State)

@[simp] theorem dropCalibration_status : (dropCalibration s).status = clearCalValid s.status := rfl
@[simp] theorem dropCalibration_err : (dropCalibration s).err = s.err := rfl
@[simp] theorem dropCalibration_rawT : (dropCalibration s).rawT = s.rawT := rfl
@[simp] theorem dropCalibration_rawP : (dropCalibration s).rawP = s.rawP := rfl
@[simp] theorem dropCalibration_calraw : (dropCalibration s).calraw = s.calraw := rfl
@[simp] theorem dropCalibration_coef : (dropCalibration s).coef = s.coef := rfl
@[simp] theorem dropCalibration_fineT : (dropCalibration s).fineT = s.fineT := rfl
@[simp] theorem dropCalibration_tempC100 : (dropCalibration s).tempC100 = s.tempC100 := rfl
@[simp] theorem dropCalibration_pressQ8 : (dropCalibration s).pressQ8 = s.pressQ8 := rfl
@[simp] theorem dropCalibration_calWmask : (dropCalibration s).calWmask = 0#24 := rfl
@[simp] theorem dropCalibration_pending : (dropCalibration s).pending = s.pending := rfl
@[simp] theorem dropCalibration_reply : (dropCalibration s).reply = s.reply := rfl
@[simp] theorem dropCalibration_draws : (dropCalibration s).draws = s.draws := rfl
@[simp] theorem dropCalibration_inputs : (dropCalibration s).inputs = s.inputs := rfl

end DropCalibration

section ResetInput

variable (s : State)

@[simp] theorem resetInput_status : (resetInput s).status = State.reset.status := rfl
@[simp] theorem resetInput_err : (resetInput s).err = State.reset.err := rfl
@[simp] theorem resetInput_rawT : (resetInput s).rawT = State.reset.rawT := rfl
@[simp] theorem resetInput_rawP : (resetInput s).rawP = State.reset.rawP := rfl
@[simp] theorem resetInput_calraw : (resetInput s).calraw = State.reset.calraw := rfl
@[simp] theorem resetInput_coef : (resetInput s).coef = State.reset.coef := rfl
@[simp] theorem resetInput_fineT : (resetInput s).fineT = State.reset.fineT := rfl
@[simp] theorem resetInput_tempC100 : (resetInput s).tempC100 = State.reset.tempC100 := rfl
@[simp] theorem resetInput_pressQ8 : (resetInput s).pressQ8 = State.reset.pressQ8 := rfl
@[simp] theorem resetInput_calWmask : (resetInput s).calWmask = State.reset.calWmask := rfl
@[simp] theorem resetInput_pending : (resetInput s).pending = State.reset.pending := rfl
@[simp] theorem resetInput_reply : (resetInput s).reply = s.reply := rfl
@[simp] theorem resetInput_draws : (resetInput s).draws = s.draws := rfl
@[simp] theorem resetInput_inputs : (resetInput s).inputs = s.inputs := rfl

end ResetInput

section Finish

@[simp] theorem Stage.finish_done (s : State) : (Stage.done s).finish = complete .none s := rfl
@[simp] theorem Stage.finish_raised (e : ErrCode) (s : State) : (Stage.raised e s).finish = complete e s := rfl
@[simp] theorem Stage.andThen_done (s : State) (f : State → Stage) : (Stage.done s).andThen f = f s := rfl
@[simp] theorem Stage.andThen_raised (e : ErrCode) (s : State) (f : State → Stage) : (Stage.raised e s).andThen f = .raised e s := rfl

end Finish

end Sys2Proof.Machine
end

