-- ==== Sys2Proof/Laws/Ops.lean ====
section
/-! SUPPORT. Once for each shared operation, everything it can do: the bus primitives, the stages of the commands, the fetch and the step. -/

namespace Sys2Proof.Machine

/-! The bus primitives. -/

section Write

variable (s : State) (off v : Byte) (l : Loc)

theorem memWrite_busy (h : readFlag s.status .busy = true) : memWrite s off v = s := if_pos h

theorem memWrite_idle (h : readFlag s.status .busy = false) : memWrite s off v = writeLoc s v (locate off) := by
  simp only [memWrite, h, Bool.false_eq_true, if_false]

@[simp] theorem writeLoc_err : (writeLoc s v l).err = s.err := by cases l <;> rfl
@[simp] theorem writeLoc_coef : (writeLoc s v l).coef = s.coef := by cases l <;> rfl
@[simp] theorem writeLoc_fineT : (writeLoc s v l).fineT = s.fineT := by cases l <;> rfl
@[simp] theorem writeLoc_tempC100 : (writeLoc s v l).tempC100 = s.tempC100 := by cases l <;> rfl
@[simp] theorem writeLoc_pressQ8 : (writeLoc s v l).pressQ8 = s.pressQ8 := by cases l <;> rfl
@[simp] theorem writeLoc_reply : (writeLoc s v l).reply = s.reply := by cases l <;> rfl
@[simp] theorem writeLoc_draws : (writeLoc s v l).draws = s.draws := by cases l <;> rfl
@[simp] theorem writeLoc_inputs : (writeLoc s v l).inputs = s.inputs := by cases l <;> rfl

@[simp] theorem memWrite_err : (memWrite s off v).err = s.err := by unfold memWrite; split <;> simp
@[simp] theorem memWrite_coef : (memWrite s off v).coef = s.coef := by unfold memWrite; split <;> simp
@[simp] theorem memWrite_fineT : (memWrite s off v).fineT = s.fineT := by unfold memWrite; split <;> simp
@[simp] theorem memWrite_tempC100 : (memWrite s off v).tempC100 = s.tempC100 := by unfold memWrite; split <;> simp
@[simp] theorem memWrite_pressQ8 : (memWrite s off v).pressQ8 = s.pressQ8 := by unfold memWrite; split <;> simp
@[simp] theorem memWrite_reply : (memWrite s off v).reply = s.reply := by unfold memWrite; split <;> simp
@[simp] theorem memWrite_draws : (memWrite s off v).draws = s.draws := by unfold memWrite; split <;> simp
@[simp] theorem memWrite_inputs : (memWrite s off v).inputs = s.inputs := by unfold memWrite; split <;> simp

/-- Every host write clears no reserved bit of STATUS, and only a write to CMD sets a bit (BUSY). -/
theorem writeLoc_status_le (k : Nat) (hk : k < 8) (h : (writeLoc s v l).status[k] = true) :
    s.status[k] = true ∨ (k = 0 ∧ l = .cmd) := by
  cases l with
  | cmd =>
    by_cases h0 : k = 0
    · exact .inr ⟨h0, rfl⟩
    · exact .inl (by simpa [writeLoc, flagBit, h0] using h)
  | rawT => exact .inl (by simp [writeLoc] at h; exact h.2)
  | rawP => exact .inl (by simp [writeLoc] at h; exact h.2)
  | _ => exact .inl h

end Write

section Read

variable (s : State) (off : Byte)

/-- A read changes nothing of CE: only the model's own reply and draw counter. -/
theorem memRead_eq : memRead s off = { s with reply := (memRead s off).reply, draws := (memRead s off).draws } := by
  unfold memRead
  split
  · split <;> rfl
  · rfl

theorem memRead_idle (h : readFlag s.status .busy = false) : memRead s off = { s with reply := readOff s off } := by
  simp only [memRead, h, Bool.false_eq_true, if_false]

@[simp] theorem memRead_status : (memRead s off).status = s.status := by rw [memRead_eq]
@[simp] theorem memRead_err : (memRead s off).err = s.err := by rw [memRead_eq]
@[simp] theorem memRead_rawT : (memRead s off).rawT = s.rawT := by rw [memRead_eq]
@[simp] theorem memRead_rawP : (memRead s off).rawP = s.rawP := by rw [memRead_eq]
@[simp] theorem memRead_calraw : (memRead s off).calraw = s.calraw := by rw [memRead_eq]
@[simp] theorem memRead_coef : (memRead s off).coef = s.coef := by rw [memRead_eq]
@[simp] theorem memRead_fineT : (memRead s off).fineT = s.fineT := by rw [memRead_eq]
@[simp] theorem memRead_tempC100 : (memRead s off).tempC100 = s.tempC100 := by rw [memRead_eq]
@[simp] theorem memRead_pressQ8 : (memRead s off).pressQ8 = s.pressQ8 := by rw [memRead_eq]
@[simp] theorem memRead_calWmask : (memRead s off).calWmask = s.calWmask := by rw [memRead_eq]
@[simp] theorem memRead_pending : (memRead s off).pending = s.pending := by rw [memRead_eq]
@[simp] theorem memRead_inputs : (memRead s off).inputs = s.inputs := by rw [memRead_eq]

end Read

/-! The stages of the commands. -/

section Stages

variable (s : State)

/-- LOADCAL loads a valid set or rejects it. -/
theorem loadcalStage_cases :
    (calibrationValid s.calWmask (decodeCoefs s.calraw) = true ∧
      loadcalStage s = .done { s with coef := decodeCoefs s.calraw, calWmask := 0#24, status := writeFlag (clearCalValid s.status) .calValid true }) ∨
    (calibrationValid s.calWmask (decodeCoefs s.calraw) = false ∧ loadcalStage s = .raised .invalidCalibration (dropCalibration s)) := by
  unfold loadcalStage
  cases h : calibrationValid s.calWmask (decodeCoefs s.calraw)
  · exact .inr ⟨rfl, by simp⟩
  · exact .inl ⟨rfl, by simp⟩

theorem calibrationValid_iff (m : BitVec 24) (c : Coefs) : calibrationValid m c = true ↔ m = 0xFFFFFF#24 ∧ c.t1 ≠ 0#16 ∧ c.p1 ≠ 0#16 := by
  simp [calibrationValid, and_assoc]

/-- The FINET stage: uncalibrated, done with the fine temperature, or raised by its arithmetic. -/
theorem finetStage_cases :
    (readFlag s.status .calValid = false ∧ finetStage s = .raised .notCalibrated s) ∨
    (∃ f, readFlag s.status .calValid = true ∧ fineOf s.rawT s.coef = .ok f ∧
      finetStage s = .done { s with fineT := BitVec.ofInt 32 f, status := writeFlag (clearFineValid s.status) .fineValid true }) ∨
    (∃ e, readFlag s.status .calValid = true ∧ fineOf s.rawT s.coef = .error e ∧
      finetStage s = .raised e { s with status := clearFineValid s.status }) := by
  cases h : readFlag s.status .calValid
  · exact .inl ⟨rfl, by simp only [finetStage, h, Bool.false_eq_true, if_false]⟩
  · cases hf : fineOf s.rawT s.coef with
    | ok f => exact .inr (.inl ⟨f, rfl, rfl, by simp only [finetStage, h, hf, if_true]⟩)
    | error e => exact .inr (.inr ⟨e, rfl, rfl, by simp only [finetStage, h, hf, if_true]⟩)

/-- The TEMP stage: no fine temperature, done with the temperature, or raised by its arithmetic. -/
theorem tempStage_cases :
    (readFlag s.status .fineValid = false ∧ tempStage s = .raised .noFineTemp s) ∨
    (∃ t, readFlag s.status .fineValid = true ∧ tempOf (sext s.fineT) = .ok t ∧
      tempStage s = .done { s with tempC100 := BitVec.ofInt 32 t, status := writeFlag s.status .tValid true }) ∨
    (∃ e, readFlag s.status .fineValid = true ∧ tempOf (sext s.fineT) = .error e ∧
      tempStage s = .raised e { s with status := clearTValid s.status }) := by
  cases h : readFlag s.status .fineValid
  · exact .inl ⟨rfl, by simp only [tempStage, h, Bool.false_eq_true, if_false]⟩
  · cases hf : tempOf (sext s.fineT) with
    | ok f => exact .inr (.inl ⟨f, rfl, rfl, by simp only [tempStage, h, hf, if_true]⟩)
    | error e => exact .inr (.inr ⟨e, rfl, rfl, by simp only [tempStage, h, hf, if_true]⟩)

/-- The PRESS stage: no fine temperature, done with the sentinel or a value, or raised by its arithmetic. -/
theorem pressStage_cases :
    (readFlag s.status .fineValid = false ∧ pressStage s = .raised .noFineTemp s) ∨
    (readFlag s.status .fineValid = true ∧ pressureOf s.rawP s.fineT s.coef = .ok .sentinel ∧
      pressStage s = .done { s with pressQ8 := 0#64, status := writeFlag (writeFlag s.status .pValid true) .pSent true }) ∨
    (∃ r, readFlag s.status .fineValid = true ∧ pressureOf s.rawP s.fineT s.coef = .ok (.value r) ∧
      pressStage s = .done { s with pressQ8 := BitVec.ofInt 64 r, status := writeFlag (writeFlag s.status .pValid true) .pSent false }) ∨
    (∃ e, readFlag s.status .fineValid = true ∧ pressureOf s.rawP s.fineT s.coef = .error e ∧
      pressStage s = .raised e { s with status := clearPValid s.status }) := by
  cases h : readFlag s.status .fineValid
  · exact .inl ⟨rfl, by simp only [pressStage, h, Bool.false_eq_true, if_false]⟩
  · cases hp : pressureOf s.rawP s.fineT s.coef with
    | error e => exact .inr (.inr (.inr ⟨e, rfl, rfl, by simp only [pressStage, h, hp, if_true]⟩))
    | ok r =>
      cases r with
      | sentinel => exact .inr (.inl ⟨rfl, rfl, by simp only [pressStage, h, hp, if_true]⟩)
      | value r => exact .inr (.inr (.inl ⟨r, rfl, rfl, by simp only [pressStage, h, hp, if_true]⟩))

end Stages

/-! The fetch and the step. -/

section Step

variable {s t : State}

/-- No instruction faults and none is refused. -/
theorem exec_next (i : Instr) (s : State) : ∃ t, exec i s = .next t := by
  cases i <;> exact ⟨_, rfl⟩

/-- What a step that answers a next state did. -/
theorem step_cases (h : step s = .next t) :
    (∃ i u, fetch s = .run i u ∧ exec i u = .next t) ∨ fetch s = .quiet t := by
  unfold step at h
  split at h
  · exact .inl ⟨_, _, ‹_›, h⟩
  · injection h with h; subst h; exact .inr ‹_›
  · cases h

/-- What the fetch finds: the engine's turn with nothing waiting or as the oldest input, a reset, a transaction, or a word that is none. -/
theorem fetch_cases (s : State) :
    (s.inputs = [] ∧ fetch s = engineTurn s) ∨
    (∃ rest, s.inputs = .engine :: rest ∧ fetch s = engineTurn { s with inputs := rest }) ∨
    (∃ rest, s.inputs = .reset :: rest ∧ fetch s = .quiet (resetInput { s with inputs := rest })) ∨
    (∃ w rest i, s.inputs = .bus w :: rest ∧ decode (.bus w) = .ok i ∧ fetch s = .run i { s with inputs := rest }) ∨
    (∃ w rest e, s.inputs = .bus w :: rest ∧ decode (.bus w) = .error e ∧ fetch s = .rejected e) := by
  cases h : s.inputs with
  | nil => exact .inl ⟨rfl, by simp only [fetch, h]⟩
  | cons x rest =>
    cases x with
    | engine => exact .inr (.inl ⟨rest, rfl, by simp only [fetch, h]⟩)
    | reset => exact .inr (.inr (.inl ⟨rest, rfl, by simp only [fetch, h]⟩))
    | bus w =>
      cases hd : decode (.bus w) with
      | ok i => exact .inr (.inr (.inr (.inl ⟨w, rest, i, rfl, hd, by simp only [fetch, h, hd]⟩)))
      | error e => exact .inr (.inr (.inr (.inr ⟨w, rest, e, rfl, hd, by simp only [fetch, h, hd]⟩)))

/-- The engine's turn executes the pending command exactly while BUSY = 1. -/
theorem engineTurn_cases (s : State) :
    (readFlag s.status .busy = true ∧ engineTurn s = .run (decodeCmd s.pending) s) ∨ (readFlag s.status .busy = false ∧ engineTurn s = .quiet s) := by
  unfold engineTurn
  cases readFlag s.status .busy <;> simp

/-- A transaction word decodes to a write, to a read, or not at all. -/
theorem decodeBus_cases (w : BusWord) :
    (w.getLsbD 16 = true ∧ decode (.bus w) = .ok (.wr (w.extractLsb' 8 8) (w.extractLsb' 0 8))) ∨
    (w.getLsbD 16 = false ∧ w.extractLsb' 0 8 = 0x00#8 ∧ decode (.bus w) = .ok (.rd (w.extractLsb' 8 8))) ∨
    (w.getLsbD 16 = false ∧ w.extractLsb' 0 8 ≠ 0x00#8 ∧ decode (.bus w) = .error (.readWordWithData w)) := by
  cases h : w.getLsbD 16
  · by_cases h0 : w.extractLsb' 0 8 = 0x00#8
    · exact .inr (.inl ⟨rfl, h0, by simp only [decode, decodeBus, h, h0, Bool.false_eq_true, if_false, if_true]⟩)
    · exact .inr (.inr ⟨rfl, h0, by simp only [decode, decodeBus, h, h0, Bool.false_eq_true, if_false]⟩)
  · exact .inl ⟨rfl, by simp only [decode, decodeBus, h, if_true]⟩

/-- What the command decoder reads is a command, for every byte. -/
theorem isCommand_decodeCmd (c : Byte) : isCommand (decodeCmd c) = true := by
  unfold decodeCmd illegalRow legalRow
  split_ifs <;> rfl

/-- One step of a run of any machine. -/
theorem run_succ {M : Host.Core} (k : Nat) {s t : M.State} (h : M.step s = .next t) : M.run (k + 1) s = M.run k t := by
  simp only [Host.Core.run, h]

/-- One step of a run of CE. -/
theorem core_run_succ (k : Nat) (h : step s = .next t) : Sys2Proof.core.run (k + 1) s = Sys2Proof.core.run k t :=
  run_succ (M := Sys2Proof.core) k h

end Step

end Sys2Proof.Machine
end

