-- ==== Sys2Proof/Laws/PerInstr.lean ====
section
/-! SUPPORT. Statements about every instruction as syntax, one lemma per constructor: the encoding matches the row of spec/opcode_table.json. -/

namespace Sys2Proof.Laws.RowMatch

/-- The word of a code as spec/opcode_table.json numbers its bits. -/
def codeWord : Code → Nat
  | .cmd c => c.toNat
  | .bus w => w.toNat

/-- The (mask, match) of the row of spec/opcode_table.json that a constructor stands for. -/
def row : Instr → Nat × Nat
  | .nop => (0xFF, 0x00)
  | .loadcal => (0xFF, 0x01)
  | .finet => (0xFF, 0x02)
  | .temp => (0xFF, 0x03)
  | .press => (0xFF, 0x04)
  | .comp => (0xFF, 0x05)
  | .nopTerr => (0xFF, 0x80)
  | .loadcalTerr => (0xFF, 0x81)
  | .finetTerr => (0xFF, 0x82)
  | .tempTerr => (0xFF, 0x83)
  | .pressTerr => (0xFF, 0x84)
  | .compTerr => (0xFF, 0x85)
  | .illegalOp6 _ => (0x7E, 0x06)
  | .illegalOp8 _ => (0x78, 0x08)
  | .illegalRsv4 _ => (0x10, 0x10)
  | .illegalRsv5 _ => (0x30, 0x20)
  | .illegalRsv6 _ => (0x70, 0x40)
  | .wr _ _ => (0x10000, 0x10000)
  | .rd _ => (0x100FF, 0x00000)

/-- A well-formed instruction's word matches its row. -/
def Statement (i : Instr) : Prop := i.wellFormed = true → codeWord (encode i) &&& (row i).1 = (row i).2

/-- A byte that matches a row as bits matches it as a number. -/
theorem and_toNat {c m v : Byte} (h : (c &&& m == v) = true) : c.toNat &&& m.toNat = v.toNat := by
  rw [← BitVec.toNat_and, eq_of_beq h]

theorem nop : Statement .nop := fun _ => by decide
theorem loadcal : Statement .loadcal := fun _ => by decide
theorem finet : Statement .finet := fun _ => by decide
theorem temp : Statement .temp := fun _ => by decide
theorem press : Statement .press := fun _ => by decide
theorem comp : Statement .comp := fun _ => by decide
theorem nopTerr : Statement .nopTerr := fun _ => by decide
theorem loadcalTerr : Statement .loadcalTerr := fun _ => by decide
theorem finetTerr : Statement .finetTerr := fun _ => by decide
theorem tempTerr : Statement .tempTerr := fun _ => by decide
theorem pressTerr : Statement .pressTerr := fun _ => by decide
theorem compTerr : Statement .compTerr := fun _ => by decide
theorem illegalOp6 (c : Byte) : Statement (.illegalOp6 c) := fun h => and_toNat (m := 0x7E#8) (v := 0x06#8) h
theorem illegalOp8 (c : Byte) : Statement (.illegalOp8 c) := fun h => and_toNat (m := 0x78#8) (v := 0x08#8) h
theorem illegalRsv4 (c : Byte) : Statement (.illegalRsv4 c) := fun h => and_toNat (m := 0x10#8) (v := 0x10#8) h
theorem illegalRsv5 (c : Byte) : Statement (.illegalRsv5 c) := fun h => and_toNat (m := 0x30#8) (v := 0x20#8) h
theorem illegalRsv6 (c : Byte) : Statement (.illegalRsv6 c) := fun h => and_toNat (m := 0x70#8) (v := 0x40#8) h

theorem wr (off data : Byte) : Statement (.wr off data) := fun _ => by
  have h : (encode (.wr off data) : Code) = .bus (1#1 ++ off ++ data) := rfl
  rw [h]
  show (1#1 ++ off ++ data : BusWord).toNat &&& (0x10000#17).toNat = (0x10000#17).toNat
  rw [← BitVec.toNat_and]
  congr 1
  refine BitVec.eq_of_getLsbD_eq fun k hk => ?_
  simp only [BitVec.getLsbD_and, BitVec.getLsbD_append]
  interval_cases k <;> simp

theorem rd (off : Byte) : Statement (.rd off) := fun _ => by
  show (0#1 ++ off ++ 0x00#8 : BusWord).toNat &&& (0x100FF#17).toNat = (0#17).toNat
  rw [← BitVec.toNat_and]
  congr 1
  refine BitVec.eq_of_getLsbD_eq fun k hk => ?_
  simp only [BitVec.getLsbD_and, BitVec.getLsbD_append]
  interval_cases k <;> simp

end Sys2Proof.Laws.RowMatch
end

