-- ==== Sys2Proof/Tests/Slice0.lean ====
section
/-! SUPPORT. Tests on fixed values: words and vectors taken from spec/ (30_encoding.md, 95_test_vectors.md), and for every obligation with
hypotheses a witness that meets them. Expected values are the spec's, cited by their id in 95_test_vectors.md. -/

namespace Sys2Proof.Tests

open Sys2Proof Sys2Proof.Machine

/-! ## Small states -/

/-- The source's calibration, "DOC" of 95_test_vectors.md. -/
def docCoefs : Coefs where
  t1 := 27504
  t2 := 26435
  t3 := BitVec.ofInt 16 (-1000)
  p1 := 36477
  p2 := BitVec.ofInt 16 (-10685)
  p3 := 3024
  p4 := 2855
  p5 := 140
  p6 := BitVec.ofInt 16 (-7)
  p7 := 15500
  p8 := BitVec.ofInt 16 (-14600)
  p9 := 6000

/-- The calibration bytes of V-S8. -/
def docBytes : Vector Byte 24 :=
  #v[0x70, 0x6B, 0x43, 0x67, 0x18, 0xFC, 0x7D, 0x8E, 0x43, 0xD6, 0xD0, 0x0B, 0x27, 0x0B, 0x8C, 0x00, 0xF9, 0xFF, 0x8C, 0x3C, 0xF8, 0xC6, 0x70, 0x17]

/-- The sentinel's calibration set, S-SEN of 95_test_vectors.md. -/
def senCoefs : Coefs := { docCoefs with t1 := 1, t2 := 24512, t3 := 0, p2 := 0, p3 := BitVec.ofInt 16 (-32768) }

/-- A calibrated machine (STATUS 0x02) with the given coefficients and raw registers. -/
def calibrated (c : Coefs) (rawT rawP : BitVec 24) : State := { State.reset with status := 0x02#8, coef := c, rawT := rawT, rawP := rawP }

/-- The start of V-C1. -/
def docState : State := calibrated docCoefs 0x7EED00#24 0x655AC0#24

/-- A machine with a fine temperature (STATUS 0x06). -/
def withFine (c : Coefs) (f : Int) (rawP : BitVec 24) : State :=
  { calibrated c 0x7EED00#24 rawP with status := 0x06#8, fineT := BitVec.ofInt 32 f }

/-- The end of V-C1. -/
def doneState : State := { docState with status := 0x1E#8, fineT := 128422, tempC100 := 2508, pressQ8 := 25767233 }

/-- The 24 staged bytes, all written. -/
def staged (bytes : Vector Byte 24) : State := { State.reset with calraw := bytes, calWmask := 0xFFFFFF#24 }

/-- A command pending (STATUS.BUSY = 1). -/
def pendingState (c : Byte) (s : State) : State := { s with pending := c, status := s.status ||| 0x01#8 }

/-- One view of the next state. -/
def view {α : Type} (o : Host.Outcome State Fault Refusal) (f : State → α) : Option α :=
  match o with
  | .next t => some (f t)
  | .fault _ => none
  | .refused _ => none

/-! ## WellFormed: an ill-formed term for each check -/

theorem test_wellFormed_refuses_a_byte_of_another_row :
    Instr.wellFormed (.illegalOp6 0x05#8) = false ∧ Instr.wellFormed (.illegalOp8 0x07#8) = false ∧ Instr.wellFormed (.illegalRsv4 0x20#8) = false ∧
    Instr.wellFormed (.illegalRsv5 0x30#8) = false ∧ Instr.wellFormed (.illegalRsv6 0x60#8) = false := by decide

theorem test_wellFormed_accepts :
    Instr.wellFormed (.illegalOp6 0x87#8) = true ∧ Instr.wellFormed (.illegalOp8 0x0F#8) = true ∧ Instr.wellFormed (.illegalRsv4 0xF5#8) = true ∧
    Instr.wellFormed (.illegalRsv5 0x2A#8) = true ∧ Instr.wellFormed (.illegalRsv6 0x40#8) = true ∧ Instr.wellFormed (.wr 0xFF#8 0xFF#8) = true := by decide

/-! ## Decoding: words written out from 30_encoding.md R101, R102, R105 and R107 -/

theorem test_decode_commands :
    decode (.cmd 0b00000000#8) = .ok .nop ∧ decode (.cmd 0b00000001#8) = .ok .loadcal ∧ decode (.cmd 0b00000010#8) = .ok .finet ∧
    decode (.cmd 0b00000011#8) = .ok .temp ∧ decode (.cmd 0b00000100#8) = .ok .press ∧ decode (.cmd 0b00000101#8) = .ok .comp := by decide

theorem test_decode_aborts :
    decode (.cmd 0b10000000#8) = .ok .nopTerr ∧ decode (.cmd 0b10000001#8) = .ok .loadcalTerr ∧ decode (.cmd 0b10000010#8) = .ok .finetTerr ∧
    decode (.cmd 0b10000011#8) = .ok .tempTerr ∧ decode (.cmd 0b10000100#8) = .ok .pressTerr ∧ decode (.cmd 0b10000101#8) = .ok .compTerr := by decide

theorem test_decode_illegal :
    decode (.cmd 0b00000110#8) = .ok (.illegalOp6 0x06#8) ∧ decode (.cmd 0b10000111#8) = .ok (.illegalOp6 0x87#8) ∧
    decode (.cmd 0b00001111#8) = .ok (.illegalOp8 0x0F#8) ∧ decode (.cmd 0b10010010#8) = .ok (.illegalRsv4 0x92#8) ∧
    decode (.cmd 0b00100000#8) = .ok (.illegalRsv5 0x20#8) ∧ decode (.cmd 0b11000001#8) = .ok (.illegalRsv6 0xC1#8) := by decide

theorem test_decode_bus :
    decode (.bus 0b10001000001110000#17) = .ok (.wr 0x10#8 0x70#8) ∧ decode (.bus 0b00000001000000000#17) = .ok (.rd 0x02#8) ∧
    decode (.bus 0b00000001000000001#17) = .error (.readWordWithData 0x00201#17) := by decide

theorem test_decodeTableWord :
    decodeTableWord 8 0x92 = some (.illegalRsv4 0x92#8) ∧ decodeTableWord 24 0x117D6 = some (.wr 0x17#8 0xD6#8) ∧
    decodeTableWord 24 0x05700 = some (.rd 0x57#8) ∧ decodeTableWord 24 0x05701 = none := by decide

set_option maxRecDepth 4000 in
/-- V-I2: 244 of the 256 bytes are illegal. -/
theorem test_illegal_bytes_are_244 : ((List.range 256).filter fun n => isIllegal (decodeCmd (BitVec.ofNat 8 n))).length = 244 := by decide

/-! ## The step -/

/-- A word placed at reset is what the next step runs: FINET is refused for want of calibration (V-F8), a write stores its byte. -/
theorem test_withFetchWord :
    view (step (State.reset.withFetchWord 8 0x02)) (fun t => (t.err, t.status, t.pending)) = some (0x03#8, 0x00#8, 0x00#8) ∧
    view (step (State.reset.withFetchWord 24 0x117D6)) (fun t => (t.calraw[7], t.calWmask)) = some (0xD6#8, 0x000080#24) := by decide

/-- V-R1, V-R2: reset in mid-command; the pending COMP is discarded. -/
theorem test_reset_discards_the_pending_command :
    view (step { pendingState 0x05#8 doneState with inputs := [.reset] }) id = some State.reset := by decide

/-! ## LOADCAL -/

/-- V-L1, and V-L7's signedness. -/
theorem test_loadcal_loads :
    view (exec .loadcal (staged docBytes)) (fun t => (t.coef, t.status, t.err, t.calWmask)) = some (docCoefs, 0x02#8, 0x00#8, 0#24) ∧
    view (exec .loadcal (staged ((docBytes.set 0 0x00).set 1 0x80))) (fun t => zext t.coef.t1) = some 32768 ∧
    view (exec .loadcal (staged ((docBytes.set 2 0x00).set 3 0x80))) (fun t => sext t.coef.t2) = some (-32768) := by decide

/-- V-L2, V-L3, V-L5, V-L12. -/
theorem test_loadcal_rejects :
    view (exec .loadcal (staged ((docBytes.set 0 0x00).set 1 0x00))) (fun t => (t.err, t.status, t.coef, t.calWmask)) = some (0x01#8, 0x00#8, Coefs.zero, 0#24) ∧
    view (exec .loadcal (staged ((docBytes.set 6 0x00).set 7 0x00))) (fun t => (t.err, t.status)) = some (0x01#8, 0x00#8) ∧
    view (exec .loadcal { docState with calraw := docBytes, calWmask := 0x7FFFFF#24 }) (fun t => (t.err, t.status, t.coef, t.calraw[23])) =
      some (0x01#8, 0x00#8, docCoefs, 0x17#8) ∧
    view (exec .loadcal State.reset) (fun t => t.err) = some 0x01#8 := by decide

/-- V-L10. -/
theorem test_loadcalTerr :
    view (exec .loadcalTerr { doneState with calWmask := 0xFFFFFF#24 }) (fun t => (t.err, t.status, t.calWmask, t.coef)) =
      some (0x02#8, 0x00#8, 0#24, docCoefs) := by decide

/-! ## FINET and TEMP -/

/-- V-F1, V-F4, V-F8. -/
theorem test_finet :
    view (exec .finet docState) (fun t => (t.fineT, t.status, t.err)) = some (128422#32, 0x06#8, 0x00#8) ∧
    view (exec .finet { docState with rawT := 0x7EED0F#24 }) (fun t => (t.fineT, t.rawT)) = some (128422#32, 0x7EED0F#24) ∧
    view (exec .finet State.reset) (fun t => (t.fineT, t.status, t.err)) = some (0#32, 0x00#8, 0x03#8) := by decide

/-- V-F2, V-F3, V-F5, V-F6, V-F7, V-F12, V-F13, and the two sets of V-S7. -/
theorem test_fineTemp :
    fineTemp 0 27504 26435 (-1000) = .ok (-721301) ∧ fineTemp 1048575 27504 26435 (-1000) = .ok 960246 ∧
    fineTemp 0 65535 32767 (-32768) = .ok (-4194145) ∧ fineTemp 0 65535 (-32768) 32767 = .ok 4194144 ∧
    fineTemp 786448 1 24512 0 = .ok 1176576 ∧ fineTemp 520000 27504 26435 (-1000) = .ok 128601 ∧
    fineTemp 507168 27504 26435 (-1000) = .ok 108006 ∧ fineTemp 637695 27504 26435 (-32768) = .ok 244375 ∧
    fineTemp 637696 27504 26435 (-32768) = .ok 244374 ∧ fineTemp 16 30000 1 32767 = .ok 439378 := by decide

/-- V-F10. -/
theorem test_finetTerr :
    view (exec .finetTerr doneState) (fun t => (t.err, t.status, t.fineT)) = some (0x02#8, 0x02#8, 128422#32) := by decide

/-- V-T1, V-T11, V-T15. -/
theorem test_temp :
    view (exec .temp (withFine docCoefs 128422 0#24)) (fun t => (t.tempC100, t.status, t.err)) = some (2508#32, 0x0E#8, 0x00#8) ∧
    view (exec .temp (withFine docCoefs (-721301) 0#24)) (fun t => t.tempC100.toInt) = some (-14088) ∧
    view (exec .temp docState) (fun t => (t.tempC100, t.status, t.err)) = some (0#32, 0x02#8, 0x04#8) := by decide

/-- V-T2 to V-T10: the rounding points. -/
theorem test_tempOf :
    tempOf 0 = .ok 0 ∧ tempOf 25 = .ok 0 ∧ tempOf 26 = .ok 1 ∧ tempOf (-25) = .ok 0 ∧ tempOf (-26) = .ok (-1) ∧ tempOf 128 = .ok 3 ∧
    tempOf (-128) = .ok (-2) ∧ tempOf 4194144 = .ok 81917 ∧ tempOf (-4194145) = .ok (-81917) := by decide

/-- V-T16. -/
theorem test_tempTerr :
    view (exec .tempTerr doneState) (fun t => (t.err, t.status, t.tempC100)) = some (0x02#8, 0x16#8, 2508#32) := by decide

/-! ## PRESS -/

/-- V-P1, V-P7, V-P9, V-P12. -/
theorem test_press :
    view (exec .press (withFine docCoefs 128422 0x655AC0#24)) (fun t => (t.pressQ8, t.status, t.err)) = some (25767233#64, 0x16#8, 0x00#8) ∧
    view (exec .press (withFine senCoefs 1176576 0x655AC0#24)) (fun t => (t.pressQ8, t.status, t.err)) = some (0#64, 0x36#8, 0x00#8) ∧
    view (exec .press { doneState with coef := { docCoefs with p4 := BitVec.ofInt 16 (-32768) }, rawP := 0#24 }) (fun t => (t.pressQ8, t.status, t.err)) =
      some (25767233#64, 0x0E#8, 0x05#8) ∧
    view (exec .press docState) (fun t => (t.status, t.err)) = some (0x02#8, 0x04#8) := by decide

/-- V-P2 to V-P6, V-P8, V-P10, V-P11. -/
theorem test_pressure :
    pressure 0 128422 36477 (-10685) 3024 2855 140 (-7) 15500 (-14600) 6000 = .ok (.value 44339071) ∧
    pressure 1048575 128422 36477 (-10685) 3024 2855 140 (-7) 15500 (-14600) 6000 = .ok (.value (-1697504)) ∧
    pressure 1048454 128422 36477 (-10685) 3024 2855 140 (-7) 15500 (-14600) 6000 = .ok (.value (-1692358)) ∧
    pressure 415148 108006 36477 (-10685) 3024 2855 140 (-7) 15500 (-14600) 6000 = .ok (.value 25610229) ∧
    pressure 415148 128601 36477 (-10685) 3024 2855 140 (-7) 15500 (-14600) 6000 = .ok (.value 25768611) ∧
    pressure 415148 960246 36477 (-32768) (-32768) 2855 140 (-7) 15500 (-14600) 6000 = .ok (.value (-55939323)) ∧
    pressure 415148 108006 65535 (-10685) 3024 2855 140 (-7) 15500 (-14600) 6000 = .error .overflow ∧
    pressure 415148 128422 1 (-10685) 3024 2855 140 (-7) 15500 (-14600) 6000 = .error .overflow := by decide

/-- V-P13. -/
theorem test_pressTerr :
    view (exec .pressTerr { doneState with status := 0x3E#8 }) (fun t => (t.err, t.status, t.pressQ8)) = some (0x02#8, 0x0E#8, 25767233#64) := by decide

/-! ## COMP, NOP and illegal bytes -/

/-- V-C1, V-C3. -/
theorem test_comp :
    view (exec .comp docState) id = some doneState ∧
    view (exec .comp State.reset) id = some { State.reset with err := 0x03#8 } := by decide

/-- V-C2, V-C4. -/
theorem test_comp_sentinel_and_overflow :
    view (exec .comp (calibrated senCoefs 0xC00100#24 0x655AC0#24)) (fun t => (t.fineT, t.tempC100, t.pressQ8, t.status, t.err)) =
      some (1176576#32, 22980#32, 0#64, 0x3E#8, 0x00#8) ∧
    view (exec .comp (calibrated { docCoefs with p4 := BitVec.ofInt 16 (-32768) } 0x7EED00#24 0#24)) (fun t => (t.fineT, t.tempC100, t.pressQ8, t.status, t.err)) =
      some (128422#32, 2508#32, 0#64, 0x0E#8, 0x05#8) := by decide

/-- V-C7. -/
theorem test_compTerr :
    view (exec .compTerr doneState) (fun t => (t.err, t.status, t.fineT)) = some (0x02#8, 0x02#8, 128422#32) := by decide

/-- V-N1. -/
theorem test_nop :
    view (exec .nop { docState with status := 0x0E#8, err := 0x05#8 }) id = some { docState with status := 0x0E#8 } := by decide

/-- V-N2. -/
theorem test_nopTerr : view (exec .nopTerr doneState) id = some { doneState with err := 0x02#8 } := by decide

/-- V-I1, one byte of each row. -/
theorem test_illegal :
    view (exec (.illegalOp6 0x86#8) doneState) id = some { doneState with err := 0x06#8 } ∧
    view (exec (.illegalOp8 0x0F#8) doneState) id = some { doneState with err := 0x06#8 } ∧
    view (exec (.illegalRsv4 0x95#8) doneState) id = some { doneState with err := 0x06#8 } ∧
    view (exec (.illegalRsv5 0x20#8) doneState) id = some { doneState with err := 0x06#8 } ∧
    view (exec (.illegalRsv6 0x40#8) doneState) id = some { doneState with err := 0x06#8 } := by decide

/-- V-I3: the illegal check comes before the calibration. -/
theorem test_illegal_first : view (step (pendingState 0x92#8 State.reset)) (fun t => t.err) = some 0x06#8 := by decide

/-! ## The bus -/

/-- V-T17, V-P14, V-B4. -/
theorem test_wr :
    view (exec (.wr 0x04#8 0x00#8) doneState) id = some { doneState with status := 0x02#8 } ∧
    view (exec (.wr 0x0A#8 0x65#8) doneState) id = some { doneState with status := 0x0E#8 } ∧
    view (exec (.wr 0x10#8 0x00#8) doneState) id = some { doneState with calWmask := 0x000001#24 } := by decide

/-- V-B3, V-B7, V-B9. -/
theorem test_wr_without_effect :
    view (exec (.wr 0x01#8 0xFF#8) doneState) id = some doneState ∧ view (exec (.wr 0x40#8 0x00#8) doneState) id = some doneState ∧
    view (exec (.wr 0x80#8 0x12#8) doneState) id = some doneState ∧
    view (exec (.wr 0x04#8 0x11#8) (pendingState 0x05#8 doneState)) id = some (pendingState 0x05#8 doneState) ∧
    view (exec (.wr 0x00#8 0x03#8) (pendingState 0x02#8 doneState)) id = some (pendingState 0x02#8 doneState) := by decide

/-- V-B5, V-B6 and PR1's result reads: the bytes of the map, in order. -/
theorem test_rd :
    ((List.range 3).map fun k => view (exec (.rd (BitVec.ofNat 8 (0x04 + k))) doneState) State.reply) = [some 0x00#8, some 0xED#8, some 0x7E#8] ∧
    ((List.range 24).map fun k => view (exec (.rd (BitVec.ofNat 8 (0x40 + k))) doneState) State.reply) = docBytes.toList.map some ∧
    ((List.range 8).map fun k => view (exec (.rd (BitVec.ofNat 8 (0x30 + k))) doneState) State.reply) =
      [some 0x41#8, some 0x2D#8, some 0x89#8, some 0x01#8, some 0x00#8, some 0x00#8, some 0x00#8, some 0x00#8] := by decide

/-- V-B1, V-B2, V-B7's STATUS read. -/
theorem test_rd_reserved_and_busy :
    ([0x00, 0x03, 0x07, 0x0B, 0x0F, 0x38, 0x3F, 0x58, 0x80, 0xFF].all fun n => view (exec (.rd (BitVec.ofNat 8 n)) doneState) State.reply == some 0x00#8) = true ∧
    view (exec (.rd 0x01#8) (pendingState 0x05#8 doneState)) State.status = some 0x1F#8 := by decide

/-! ## The host's statements -/

/-- The words of PR1 for its calibration block, its raw registers, a command with its poll, and a result read. -/
theorem test_host_words :
    (setCalStmt docCoefs).map stmtWord = [0x11070, 0x1116B, 0x11243, 0x11367, 0x11418, 0x115FC, 0x1167D, 0x1178E, 0x11843, 0x119D6, 0x11AD0, 0x11B0B,
      0x11C27, 0x11D0B, 0x11E8C, 0x11F00, 0x120F9, 0x121FF, 0x1228C, 0x1233C, 0x124F8, 0x125C6, 0x12670, 0x12717].map (fun n => some (BitVec.ofNat 17 n)) ∧
    (setRawTStmt 519888#20).map stmtWord = [some 0x10400#17, some 0x105ED#17, some 0x1067E#17] ∧
    (setRawPStmt 415148#20).map stmtWord = [some 0x108C0#17, some 0x1095A#17, some 0x10A65#17] ∧
    (runStmt 7 .comp).map stmtWord = [some 0x10005#17, some 0x00100#17] ∧ (cmdStmt .loadcal true).map stmtWord = [some 0x10081#17] ∧
    (rdStmt 0x28#8 4).map stmtWord = [some 0x02800#17, some 0x02900#17, some 0x02A00#17, some 0x02B00#17] := by decide

/-- A branch on P_SENT is taken and one on ERR = 0 is not (PR2). -/
theorem test_host_branches :
    stmtNext 3 0x3E#8 (.jb 0x01#8 5 9) = 9 ∧ stmtNext 3 0x1E#8 (.jb 0x01#8 5 9) = 4 ∧ stmtNext 3 0x00#8 (.jnz 0x02#8 9) = 4 ∧
    stmtNext 3 0x04#8 (.jnz 0x02#8 9) = 9 ∧ assembleBytes [0xA6#8, 0xF5#8, 0x01#8, 0x00#8] = 128422 := by decide

/-! ## Witnesses: states and operands that meet the hypotheses of each obligation, every clause at the ends of its range -/

theorem test_witness_DecodingAnEncodedInstructionGivesItBack :
    ∃ i : Instr, i.wellFormed = true ∧ decode (encode i) = .ok i := ⟨.illegalRsv6 0xCF#8, by decide⟩

theorem test_witness_EncodingADecodedWordGivesItBack :
    decode (.cmd 0xFF#8) = .ok (.illegalRsv4 0xFF#8) ∧ decode (.bus 0x1FFFF#17) = .ok (.wr 0xFF#8 0xFF#8) ∧ decode (.bus 0#17) = .ok (.rd 0x00#8) := by decide

/-- The engine moves with no input waiting and as the oldest input. -/
theorem test_witness_EngineStepRunsThePendingCommand :
    (∃ s : State, readFlag s.status .busy = true ∧ s.inputs = []) ∧
    (∃ (s : State) (rest : List Input), readFlag s.status .busy = true ∧ s.inputs = .engine :: rest) :=
  ⟨⟨pendingState 0x05#8 docState, by decide⟩, ⟨{ pendingState 0x05#8 docState with inputs := [.engine] }, [], by decide⟩⟩

theorem test_witness_HostStepRunsTheDecodedTransaction :
    ∃ (s : State) (w : BusWord) (rest : List Input) (i : Instr), s.inputs = .bus w :: rest ∧ decode (.bus w) = .ok i :=
  ⟨{ docState with inputs := [.bus 0x10005#17] }, 0x10005#17, [], .wr 0x00#8 0x05#8, by decide⟩

theorem test_witness_IdleEngineTurnChangesNothing :
    (∃ s : State, readFlag s.status .busy = false ∧ s.inputs = []) ∧
    (∃ (s : State) (rest : List Input), readFlag s.status .busy = false ∧ s.inputs = .engine :: rest) :=
  ⟨⟨docState, by decide⟩, ⟨{ docState with inputs := [.engine, .reset] }, [.reset], by decide⟩⟩

/-- A refused word (the least DATA that is not 0x00) and one that is not. -/
theorem test_witness_StepStopsOnlyOnAWordThatIsNoTransaction :
    (∃ r : Refusal, step { docState with inputs := [.bus 0x00201#17] } = .refused r) ∧
    ¬(∃ r : Refusal, step { docState with inputs := [.bus 0x00200#17] } = .refused r) :=
  ⟨⟨_, rfl⟩, fun ⟨_, h⟩ => by cases h⟩

theorem test_witness_ResetInputZeroesEveryRegister :
    ∃ (s : State) (rest : List Input), s.inputs = .reset :: rest ∧ s.status = 0x1F#8 :=
  ⟨{ pendingState 0x05#8 doneState with inputs := [.reset] }, [], by decide⟩

theorem test_witness_CmdWriteQueuesTheByte : ∃ s : State, readFlag s.status .busy = false ∧ s.status = 0x1E#8 := ⟨doneState, by decide⟩

theorem test_witness_RawTWriteReplacesTheByteAndClearsFine :
    ∃ s : State, readFlag s.status .busy = false ∧ (0x04#8).toNat = 0x04 + 0 ∧ (0x06#8).toNat = 0x04 + 2 := ⟨doneState, by decide⟩

theorem test_witness_RawPWriteReplacesTheByteAndClearsPress :
    ∃ s : State, readFlag s.status .busy = false ∧ (0x08#8).toNat = 0x08 + 0 ∧ (0x0A#8).toNat = 0x08 + 2 := ⟨doneState, by decide⟩

theorem test_witness_CalrawWriteStagesTheByte :
    ∃ s : State, readFlag s.status .busy = false ∧ (0x10#8).toNat = 0x10 + 0 ∧ (0x27#8).toNat = 0x10 + 23 := ⟨doneState, by decide⟩

/-- The offsets on either side of every writable range. -/
theorem test_witness_WriteElsewhereHasNoEffect :
    ([0x01, 0x02, 0x03, 0x07, 0x0B, 0x0F, 0x28, 0x57, 0xFF].all fun n => decide (n ≠ 0x00 ∧ ¬(0x04 ≤ n ∧ n ≤ 0x06) ∧ ¬(0x08 ≤ n ∧ n ≤ 0x0A) ∧
      ¬(0x10 ≤ n ∧ n ≤ 0x27))) = true := by decide

/-- Every register's first and last byte in an idle state, read as 95_test_vectors.md says. -/
theorem test_witness_IdleReadReturnsTheRegisterByte :
    readFlag doneState.status .busy = false ∧
    ([0x00, 0x01, 0x02, 0x04, 0x06, 0x08, 0x0A, 0x10, 0x27, 0x28, 0x2B, 0x2C, 0x2F, 0x30, 0x37, 0x40, 0x41, 0x56, 0x57, 0x0B, 0x0F, 0x38, 0x3F, 0x58, 0xFF].map
      fun n => view (exec (.rd (BitVec.ofNat 8 n)) doneState) State.reply) =
    [0x00, 0x1E, 0x00, 0x00, 0x7E, 0xC0, 0x65, 0x00, 0x00, 0xA6, 0x00, 0xCC, 0x00, 0x41, 0x00, 0x70, 0x6B, 0x70, 0x17, 0x00, 0x00, 0x00, 0x00, 0x00, 0x00].map
      (fun n => some (BitVec.ofNat 8 n)) := by decide

theorem test_witness_BusyAccessesAreDroppedOrDrawn :
    ∃ s : State, readFlag s.status .busy = true ∧ (0x01#8 : Byte) = 0x01#8 ∧ (0x28#8 : Byte) ≠ 0x01#8 := ⟨pendingState 0x05#8 doneState, by decide⟩

theorem test_witness_ReadAfterWriteOfAStoredByte :
    readFlag doneState.status .busy = false ∧
    ([0x04, 0x06, 0x08, 0x0A, 0x10, 0x27].all fun n => decide ((0x04 ≤ n ∧ n ≤ 0x06) ∨ (0x08 ≤ n ∧ n ≤ 0x0A) ∨ (0x10 ≤ n ∧ n ≤ 0x27))) = true ∧
    (0x05#8 : Byte) ≠ 0x04#8 ∧ (0x05#8 : Byte) ≠ 0x01#8 := by decide

theorem test_witness_NopClearsErrAndNothingElse : ∃ s : State, s.err = 0x05#8 ∧ s.status = 0x0F#8 :=
  ⟨pendingState 0x00#8 { docState with status := 0x0E#8, err := 0x05#8 }, by decide⟩

/-- Each alternative alone, and both, at the ends of the ranges. -/
theorem test_witness_IllegalCommandChangesOnlyErr :
    ([0x10, 0x70, 0x06, 0x0F, 0x86, 0xFF].all fun n => decide ((BitVec.ofNat 8 n).extractLsb' 4 3 ≠ 0#3 ∨ 6 ≤ ((BitVec.ofNat 8 n).extractLsb' 0 4).toNat)) = true := by
  decide

theorem test_witness_EveryIllegalRowChangesOnlyErr :
    isIllegal (.illegalOp6 0x06#8) = true ∧ isIllegal (.illegalOp8 0x08#8) = true ∧ isIllegal (.illegalRsv4 0x10#8) = true ∧
    isIllegal (.illegalRsv5 0x20#8) = true ∧ isIllegal (.illegalRsv6 0x40#8) = true := by decide

theorem test_witness_LoadcalLoadsAValidSet :
    ∃ s : State, s.calWmask = 0xFFFFFF#24 ∧ s.calraw[1] ++ s.calraw[0] ≠ 0x0000#16 ∧ s.calraw[7] ++ s.calraw[6] ≠ 0x0000#16 := ⟨staged docBytes, by decide⟩

/-- The three reasons, each alone. -/
theorem test_witness_LoadcalRejectsAnInvalidSet :
    ({ staged docBytes with calWmask := 0x7FFFFF#24 } : State).calWmask ≠ 0xFFFFFF#24 ∧
    (∃ s : State, s.calWmask = 0xFFFFFF#24 ∧ s.calraw[1] ++ s.calraw[0] = 0x0000#16 ∧ s.calraw[7] ++ s.calraw[6] ≠ 0x0000#16) ∧
    (∃ s : State, s.calWmask = 0xFFFFFF#24 ∧ s.calraw[1] ++ s.calraw[0] ≠ 0x0000#16 ∧ s.calraw[7] ++ s.calraw[6] = 0x0000#16) :=
  ⟨by decide, ⟨staged ((docBytes.set 0 0x00).set 1 0x00), by decide⟩, ⟨staged ((docBytes.set 6 0x00).set 7 0x00), by decide⟩⟩

theorem test_witness_SecondLoadcalWithoutStagingFails :
    ∃ s t : State, exec .loadcal s = .next t ∧ t.status = 0x02#8 := ⟨staged docBytes, _, rfl, by decide⟩

theorem test_witness_OnlyLoadcalWritesTheCoefficients :
    ∃ (i : Instr) (s t : State), exec i s = .next t ∧ i ≠ .loadcal ∧ readFlag t.status .calValid = true := ⟨.comp, docState, _, rfl, by decide, by decide⟩

theorem test_witness_FineTemperatureNeverOverflows : ∃ c : Coefs, c.t1 ≠ 0#16 ∧ c.t1 = 65535#16 := ⟨{ docCoefs with t1 := 65535#16 }, by decide⟩

theorem test_witness_FinetComputesTheFineTemperature :
    (∃ s : State, readFlag s.status .calValid = false) ∧
    (∃ (s : State) (f : Int), readFlag s.status .calValid = true ∧
      fineTemp (s.rawT.extractLsb' 4 20).toNat s.coef.t1.toNat s.coef.t2.toInt s.coef.t3.toInt = .ok f) :=
  ⟨⟨State.reset, by decide⟩, ⟨docState, 128422, by decide⟩⟩

theorem test_witness_FinetSucceedsWheneverCalibrated : ∃ s : State, readFlag s.status .calValid = true := ⟨docState, by decide⟩

theorem test_witness_TempComputesTheTemperature :
    (∃ s : State, readFlag s.status .fineValid = false) ∧ (∃ s : State, readFlag s.status .fineValid = true ∧ s.fineT = 128422) :=
  ⟨⟨docState, by decide⟩, ⟨doneState, by decide⟩⟩

/-- The four corners of the range. -/
theorem test_witness_EarlyPressureStepsNeverOverflow :
    ∀ a ∈ [(0 : Int), 1048575], ∀ f ∈ [(-4194145 : Int), 4194144], (0 ≤ a ∧ a ≤ 1048575 ∧ -4194145 ≤ f ∧ f ≤ 4194144) ∧
      (pressPolynomials f (-32768) (-32768) (-32768) (-32768) (-32768)).isOk = true := by decide

/-- The last product with a zero denominator, the first without, and a negative one. -/
theorem test_witness_DenominatorIsZeroExactlyBelowTwoToThe33 :
    pressDenominator 8589934591 1 = .ok 0 ∧ pressDenominator 8589934592 1 = .ok 1 ∧ pressDenominator (-1) 1 = .ok (-1) ∧ pressDenominator 0 1 = .ok 0 := by decide

theorem test_witness_TdivTruncatesTowardZero :
    (597560748 : Int) ≠ 0 ∧ tdiv (-305758757883612500) 597560748 = -511678116 ∧ tdiv 1 (-2) = 0 := by decide

/-- No fine temperature, a value, the sentinel and an overflow. -/
theorem test_witness_PressComputesThePressure :
    readFlag docState.status .fineValid = false ∧
    (readFlag doneState.status .fineValid = true ∧ pressureOf doneState.rawP doneState.fineT doneState.coef = .ok (.value 25767233)) ∧
    pressureOf 0x655AC0#24 1176576#32 senCoefs = .ok .sentinel ∧
    pressureOf 0#24 128422#32 { docCoefs with p4 := BitVec.ofInt 16 (-32768) } = .error .overflow := by decide

theorem test_witness_SentinelIsASuccess :
    (∃ s : State, readFlag s.status .fineValid = true ∧ pressureOf s.rawP s.fineT s.coef = .ok .sentinel) ∧
    (∃ (s : State) (f : Int), readFlag s.status .calValid = true ∧ fineOf s.rawT s.coef = .ok f ∧
      pressureOf s.rawP (BitVec.ofInt 32 f) s.coef = .ok .sentinel) :=
  ⟨⟨withFine senCoefs 1176576 0x655AC0#24, by decide⟩, ⟨calibrated senCoefs 0xC00100#24 0x655AC0#24, 1176576, by decide⟩⟩

/-- Both commands that can end with OVERFLOW do, each by its pressure function. -/
theorem test_witness_OverflowComesOnlyFromThePressureStage :
    isCommand .press = true ∧ isCommand .comp = true ∧
    view (exec .press { doneState with rawP := 0#24, coef := { docCoefs with p4 := BitVec.ofInt 16 (-32768) } }) State.err = some 0x05#8 ∧
    view (exec .comp (calibrated { docCoefs with p4 := BitVec.ofInt 16 (-32768) } 0x7EED00#24 0#24)) State.err = some 0x05#8 := by decide

theorem test_witness_CompRunsTheThreeStages :
    readFlag State.reset.status .calValid = false ∧
    (readFlag docState.status .calValid = true ∧ fineOf docState.rawT docState.coef = .ok 128422 ∧
      pressureOf docState.rawP 128422#32 docState.coef = .ok (.value 25767233)) ∧
    (fineOf 0xC00100#24 senCoefs = .ok 1176576 ∧ pressureOf 0x655AC0#24 1176576#32 senCoefs = .ok .sentinel) ∧
    (fineOf 0x7EED00#24 { docCoefs with p4 := BitVec.ofInt 16 (-32768) } = .ok 128422 ∧
      pressureOf 0#24 128422#32 { docCoefs with p4 := BitVec.ofInt 16 (-32768) } = .error .overflow) := by decide

theorem test_witness_UncalibratedCommandsChangeOnlyErr :
    ∃ s : State, readFlag s.status .calValid = false ∧ s.coef = docCoefs := ⟨{ docState with status := 0x00#8 }, by decide⟩

theorem test_witness_CommandsWithoutFineTemperatureChangeOnlyErr : ∃ s : State, readFlag s.status .fineValid = false ∧ s.status = 0x02#8 := ⟨docState, by decide⟩

theorem test_witness_EveryCommandCompletesAndLeavesTheInputs :
    isCommand .nop = true ∧ isCommand .loadcal = true ∧ isCommand .finet = true ∧ isCommand .temp = true ∧ isCommand .press = true ∧ isCommand .comp = true ∧
    isCommand .nopTerr = true ∧ isCommand .compTerr = true ∧ isCommand (.illegalOp6 0x06#8) = true ∧ isCommand (.illegalRsv6 0x40#8) = true := by decide

/-- Every bit is set by the instruction that may set it. -/
theorem test_witness_EveryValidBitIsSetOnlyByItsStage :
    view (exec .finet docState) (fun t => readFlag t.status .fineValid) = some true ∧
    view (exec .temp (withFine docCoefs 128422 0#24)) (fun t => readFlag t.status .tValid) = some true ∧
    view (exec .press (withFine senCoefs 1176576 0x655AC0#24)) (fun t => (readFlag t.status .pValid, readFlag t.status .pSent)) = some (true, true) ∧
    view (exec (.wr 0x00#8 0x05#8) docState) (fun t => readFlag t.status .busy) = some true := by decide

theorem test_witness_BusyHostTrafficLeavesCeAlone :
    ∃ (s t : State) (w : BusWord) (rest : List Input), readFlag s.status .busy = true ∧ s.inputs = .bus w :: rest ∧ step s = .next t :=
  ⟨{ pendingState 0x05#8 docState with inputs := [.bus 0x10411#17] }, _, 0x10411#17, [], by decide, rfl, rfl⟩

/-- A transaction waits and no reset does; and a reset waits. -/
theorem test_witness_APendingCommandCompletesUnlessReset :
    (∃ s : State, readFlag s.status .busy = true ∧ s.inputs = [.bus 0x00100#17] ∧ .reset ∉ s.inputs ∧
      (∀ w : BusWord, .bus w ∈ s.inputs → ∃ i : Instr, decode (.bus w) = .ok i)) ∧
    (∃ s : State, readFlag s.status .busy = true ∧ .reset ∈ s.inputs ∧
      (∀ w : BusWord, .bus w ∈ s.inputs → ∃ i : Instr, decode (.bus w) = .ok i)) :=
  ⟨⟨{ pendingState 0x05#8 docState with inputs := [.bus 0x00100#17] }, by decide, rfl, by decide, fun w h => by
      rcases List.mem_singleton.mp h with h
      injection h with h
      subst h
      exact ⟨_, rfl⟩⟩,
   ⟨{ pendingState 0x05#8 docState with inputs := [.reset] }, by decide, by decide, fun w h => nomatch List.mem_singleton.mp h⟩⟩

theorem test_witness_RepeatedCommandsAreIdempotent : ∃ (i : Instr) (s t : State), isCommand i = true ∧ i ≠ .loadcal ∧ exec i s = .next t ∧ t = doneState :=
  ⟨.comp, docState, _, rfl, by decide, rfl, by decide⟩

/-- Two states that differ in what FINET does not read. -/
theorem test_witness_FinetDependsOnlyOnItsOperands :
    ∃ s u : State, s ≠ u ∧ s.rawT ≠ u.rawT ∧ s.rawT.extractLsb' 4 20 = u.rawT.extractLsb' 4 20 ∧ s.coef.t1 = u.coef.t1 ∧ s.coef.t2 = u.coef.t2 ∧
      s.coef.t3 = u.coef.t3 ∧ readFlag s.status .calValid = readFlag u.status .calValid :=
  ⟨docState, { docState with rawT := 0x7EED0F#24, rawP := 0#24, coef := { docCoefs with p1 := 1 } }, by decide⟩

/-- Two states that differ in what PRESS does not read. -/
theorem test_witness_PressDependsOnlyOnItsOperands :
    ∃ s u : State, s ≠ u ∧ s.rawP.extractLsb' 4 20 = u.rawP.extractLsb' 4 20 ∧ s.fineT = u.fineT ∧
      { s.coef with t1 := 0, t2 := 0, t3 := 0 } = ({ u.coef with t1 := 0, t2 := 0, t3 := 0 } : Coefs) ∧
      readFlag s.status .fineValid = readFlag u.status .fineValid :=
  ⟨doneState, { doneState with rawT := 0#24, rawP := 0x655AC1#24, coef := { docCoefs with t1 := 1 } }, by decide⟩

/-- A state with every result valid meets both invariants, and a step leads from it. -/
theorem test_witness_EveryStepKeepsTheRegisterInvariants : ∃ s t : State, s.Inv ∧ s.status = 0x1E#8 ∧ step s = .next t :=
  ⟨{ doneState with inputs := [.bus 0x10400#17] }, _,
    ⟨by decide, by decide, by decide, by decide, by decide, by decide, by decide, by decide, by decide, by decide, by decide⟩, by decide, rfl⟩

theorem test_witness_NoValidBitStandsOverAStaleResult : ∃ s t : State, s.Fresh ∧ s.status = 0x1E#8 ∧ step s = .next t :=
  ⟨{ doneState with inputs := [.bus 0x10400#17] }, _, ⟨by decide, by decide, by decide, by decide⟩, by decide, rfl⟩

/-- Every statement in a program, at the first and the last position. -/
theorem test_witness_HostStatementsPerformTheirTransaction :
    ∃ (prog : List HostStmt) (t u : State), exec (.wr 0x01#8 0xFF#8) doneState = .next t ∧ exec (.rd 0x01#8) doneState = .next u ∧
      prog[0]? = some (.wr 0x01#8 0xFF#8) ∧ prog[1]? = some (.rd 0x01#8) ∧ prog[2]? = some (.jb 0x01#8 5 0) ∧ prog[3]? = some (.jnz 0x01#8 0) ∧
      prog[4]? = some .halt :=
  ⟨[.wr 0x01#8 0xFF#8, .rd 0x01#8, .jb 0x01#8 5 0, .jnz 0x01#8 0, .halt], _, _, rfl, rfl, rfl, rfl, rfl, rfl, rfl⟩

end Sys2Proof.Tests
end

section
/-! PROOFS. What the fetch finds for each kind of oldest input, and what the step then does (00_scope.md R18). -/

namespace Sys2Proof.Machine

variable {s t : State} {rest : List Input} {w : BusWord} {i : Instr}

theorem engineTurn_busy (h : readFlag s.status .busy = true) : engineTurn s = .run (decodeCmd s.pending) s := if_pos h

theorem engineTurn_idle (h : readFlag s.status .busy = false) : engineTurn s = .quiet s := if_neg (Bool.eq_false_iff.mp h)

theorem fetch_of_inputs_nil (h : s.inputs = []) : fetch s = engineTurn s := by simp only [fetch, h]

theorem fetch_of_inputs_engine (h : s.inputs = .engine :: rest) : fetch s = engineTurn { s with inputs := rest } := by simp only [fetch, h]

theorem fetch_of_inputs_bus (h : s.inputs = .bus w :: rest) (hd : decode (.bus w) = .ok i) : fetch s = .run i { s with inputs := rest } := by
  simp only [fetch, h, hd]

theorem step_of_fetch_run (h : fetch s = .run i t) : step s = exec i t := by simp only [step, h]

theorem step_of_fetch_quiet (h : fetch s = .quiet t) : step s = .next t := by simp only [step, h]

end Sys2Proof.Machine
end

section
/-! PROOFS. The obligations of 00_scope.md on the step. -/

namespace Sys2Proof.Proofs

open Sys2Proof Sys2Proof.Machine

/-- Settles O4: whichever way the engine comes to move, the fetch is its turn, and with BUSY = 1 the turn runs PENDING. -/
theorem engineStepRunsThePendingCommand : Obligations.EngineStepRunsThePendingCommand := by
  intro s rest hbusy
  constructor
  · intro hinputs
    exact step_of_fetch_run ((fetch_of_inputs_nil hinputs).trans (engineTurn_busy hbusy))
  · intro hinputs
    exact step_of_fetch_run ((fetch_of_inputs_engine hinputs).trans (engineTurn_busy hbusy))

/-- Settles O5: the fetch finds the decoded transaction. -/
theorem hostStepRunsTheDecodedTransaction : Obligations.HostStepRunsTheDecodedTransaction := by
  intro s w rest i hinputs hdecode
  exact step_of_fetch_run (fetch_of_inputs_bus hinputs hdecode)

/-- Settles O6: whichever way the engine comes to move, the fetch is its turn, and with BUSY = 0 the turn is quiet. -/
theorem idleEngineTurnChangesNothing : Obligations.IdleEngineTurnChangesNothing := by
  intro s rest hidle
  constructor
  · intro hinputs
    exact step_of_fetch_quiet ((fetch_of_inputs_nil hinputs).trans (engineTurn_idle hidle))
  · intro hinputs
    exact step_of_fetch_quiet ((fetch_of_inputs_engine hinputs).trans (engineTurn_idle hidle))

end Sys2Proof.Proofs
end

section
/-! PROOFS. The truncating division of 00_scope.md R13: its magnitude, its sign and where it is 0. -/

namespace Sys2Proof.Machine

variable {a b : Int}

theorem natAbs_tdiv (a b : Int) : (tdiv a b).natAbs = a.natAbs / b.natAbs := Int.natAbs_tdiv a b

/-- A product is negative exactly when its factors have opposite signs, so the sign of the quotient is read off `sign (a * b)`. -/
theorem tdiv_neg_iff : tdiv a b < 0 ↔ ((a < 0 ∧ 0 < b) ∨ (0 < a ∧ b < 0)) ∧ b.natAbs ≤ a.natAbs := by
  have hsign : (tdiv a b).sign = if a.natAbs < b.natAbs then 0 else (a * b).sign := by
    rw [Int.sign_mul]
    exact Int.sign_tdiv a b
  rw [← Int.sign_eq_neg_one_iff_neg, hsign]
  split
  case isTrue hlt => simp [Nat.not_le.mpr hlt]
  case isFalse hge => rw [Int.sign_eq_neg_one_iff_neg, mul_neg_iff, or_comm, and_iff_left (Nat.not_lt.mp hge)]

theorem tdiv_eq_zero_of_natAbs_lt (h : a.natAbs < b.natAbs) : tdiv a b = 0 := by
  rw [← Int.natAbs_eq_zero, natAbs_tdiv, Nat.div_eq_of_lt h]

end Sys2Proof.Machine

namespace Sys2Proof.Proofs

open Sys2Proof.Machine

/-- Settles O35, clause by clause. -/
theorem tdivTruncatesTowardZero : Obligations.TdivTruncatesTowardZero := by
  intro a b _
  exact ⟨natAbs_tdiv a b, tdiv_neg_iff, tdiv_eq_zero_of_natAbs_lt⟩

end Sys2Proof.Proofs
end

section
/-! PROOFS. The values the checked formulas can give, and that each fits its register (41_temperature.md R133, R136; 42_pressure.md R141). -/

namespace Sys2Proof.Machine

/-- The formula of 41_temperature.md R131, behind its checks. -/
theorem fineTemp_eq_ok {adcT t1 t2 t3 f : Int} (h : fineTemp adcT t1 t2 t3 = .ok f) :
    f = (adcT / 8 - t1 * 2) * t2 / 2048 + (adcT / 16 - t1) * (adcT / 16 - t1) / 4096 * t3 / 16384 := by
  simp only [fineTemp, bind_eq_ok, chk_eq_ok_iff] at h
  obtain ⟨_, ⟨rfl, _⟩, _, ⟨rfl, _⟩, _, ⟨rfl, _⟩, _, ⟨rfl, _⟩, _, ⟨rfl, _⟩, _, ⟨rfl, _⟩, rfl, _⟩ := h
  simp only [asr_eq_ediv, shl]
  norm_num

theorem tempOf_eq_ok {f t : Int} (h : tempOf f = .ok t) : t = (f * 5 + 128) / 256 := by
  simp only [tempOf, bind_eq_ok, chk_eq_ok_iff] at h
  obtain ⟨_, ⟨rfl, _⟩, _, ⟨rfl, _⟩, ht⟩ := h
  cases ht
  simp [asr_eq_ediv]

/-- The last check of the pressure function is of its result. -/
theorem pressRefine_range {pb p7 p8 p9 r : Int} (h : pressRefine pb p7 p8 p9 = .ok r) :
    -9223372036854775808 ≤ r ∧ r ≤ 9223372036854775807 := by
  simp only [pressRefine, bind_eq_ok, chk_eq_ok_iff] at h
  obtain ⟨_, _, _, _, _, _, _, _, _, _, _, _, rfl, hrange⟩ := h
  exact hrange

/-- Every pressure of the registers fits PRESS_Q8. -/
theorem pressureOf_value_range {rawP : BitVec 24} {fineT : BitVec 32} {c : Coefs} {r : Int} (h : pressureOf rawP fineT c = .ok (.value r)) :
    -9223372036854775808 ≤ r ∧ r ≤ 9223372036854775807 := by
  simp only [pressureOf, pressure, bind_eq_ok] at h
  obtain ⟨p, _, den, _, h⟩ := h
  split at h
  · cases h
  · simp only [bind_eq_ok] at h
    obtain ⟨pb, _, _, hrefine, hr⟩ := h
    cases hr
    exact pressRefine_range hrefine

/-- What a factor in the range of a signed 16-bit coefficient makes of a value that is not negative, and of one that is not positive. -/
theorem mul_signed16_of_nonneg {x t : Int} (hx : 0 ≤ x) (ht : -32768 ≤ t ∧ t ≤ 32767) : x * -32768 ≤ x * t ∧ x * t ≤ x * 32767 :=
  ⟨mul_le_mul_of_nonneg_left ht.1 hx, mul_le_mul_of_nonneg_left ht.2 hx⟩

theorem mul_signed16_of_nonpos {x t : Int} (hx : x ≤ 0) (ht : -32768 ≤ t ∧ t ≤ 32767) : x * 32767 ≤ x * t ∧ x * t ≤ x * -32768 :=
  ⟨mul_le_mul_of_nonpos_left ht.2 hx, mul_le_mul_of_nonpos_left ht.1 hx⟩

/-- The range of 41_temperature.md R133 (which needs T1 ≠ 0), and one for every T1. With `d` the difference of the second term, that of the first is
`2 d` or `2 d + 1`, so a large square falls on a first term that the range of T2 keeps away from its own bound. -/
theorem fineTemp_range {adcT t1 t2 t3 f : Int} (hA : 0 ≤ adcT ∧ adcT ≤ 1048575) (h1 : 0 ≤ t1 ∧ t1 ≤ 65535) (h2 : -32768 ≤ t2 ∧ t2 ≤ 32767)
    (h3 : -32768 ≤ t3 ∧ t3 ≤ 32767) (h : fineTemp adcT t1 t2 t3 = .ok f) :
    -4194304 ≤ f ∧ f ≤ 4194144 ∧ (1 ≤ t1 → -4194145 ≤ f) := by
  rw [fineTemp_eq_ok h]
  obtain ⟨a, ha⟩ : ∃ a, a = adcT / 8 - t1 * 2 := ⟨_, rfl⟩
  obtain ⟨d, hd⟩ : ∃ d, d = adcT / 16 - t1 := ⟨_, rfl⟩
  rw [← ha, ← hd]
  have hsq : 0 ≤ d * d := mul_self_nonneg d
  have hvar2 := mul_signed16_of_nonneg (x := d * d / 4096) (by omega) h3
  rcases le_or_gt 0 a with hpos | hneg
  · have hvar1 := mul_signed16_of_nonneg hpos h2
    have hd0 : 0 ≤ d := by omega
    have hwide : d * d ≤ 65535 * 65535 := mul_self_le_mul_self hd0 (by omega)
    have htight (h : 1 ≤ t1) : d * d ≤ 65534 * 65534 := mul_self_le_mul_self hd0 (by omega)
    omega
  · have hvar1 := mul_signed16_of_nonpos hneg.le h2
    have hwide : d * d ≤ 65535 * 65535 := by
      rw [← neg_mul_neg]
      exact mul_self_le_mul_self (by omega) (by omega)
    omega

theorem sext_range_16 (v : BitVec 16) : -32768 ≤ sext v ∧ sext v ≤ 32767 :=
  ⟨BitVec.le_toInt v, Int.le_of_lt_add_one v.toInt_lt⟩

theorem sext_range_32 (v : BitVec 32) : -2147483648 ≤ sext v ∧ sext v ≤ 2147483647 :=
  ⟨BitVec.le_toInt v, Int.le_of_lt_add_one v.toInt_lt⟩

/-- Every fine temperature of the registers fits FINE_T, and with T1 not zero it is in the range of R133. -/
theorem fineOf_range {rawT : BitVec 24} {c : Coefs} {f : Int} (h : fineOf rawT c = .ok f) :
    -4194304 ≤ f ∧ f ≤ 4194144 ∧ (c.t1 ≠ 0#16 → -4194145 ≤ f) := by
  obtain ⟨hlo, hhi, htight⟩ := fineTemp_range (by unfold adcCode zext; omega) (by unfold zext; omega) (sext_range_16 c.t2)
    (sext_range_16 c.t3) h
  refine ⟨hlo, hhi, fun h1 => htight ?_⟩
  unfold zext
  bv_omega

end Sys2Proof.Machine
end

section
/-! PROOFS. What an instruction and a step can do to CE, said once: the single updates an instruction is made of, the chain of them that each
instruction performs, and what follows for a property that every update keeps. -/

namespace Sys2Proof.Machine

/-- The updates of CE's state that an instruction may make. Clearing is open to every instruction; what writes a result register or a coefficient, sets a
valid bit, or is a host access belongs to the instructions it names. -/
inductive Update : Instr → State → State → Prop where
  | complete (i : Instr) (s : State) (e : ErrCode) : Update i s (complete e s)
  | clearPress (i : Instr) (s : State) : Update i s { s with status := clearPValid s.status }
  | clearTemp (i : Instr) (s : State) : Update i s { s with status := clearTValid s.status }
  | clearFine (i : Instr) (s : State) : Update i s { s with status := clearFineValid s.status }
  | dropCal (i : Instr) (s : State) : Update i s (dropCalibration s)
  | loadCal (s : State) (hvalid : calibrationValid s.calWmask (decodeCoefs s.calraw) = true) :
      Update .loadcal s
        { s with coef := decodeCoefs s.calraw, calWmask := 0#24, status := writeFlag (clearCalValid s.status) .calValid true }
  | fine (i : Instr) (s : State) (f : Int) (hi : i = .finet ∨ i = .comp) (hcal : readFlag s.status .calValid = true)
      (hf : fineOf s.rawT s.coef = .ok f) :
      Update i s { s with fineT := BitVec.ofInt 32 f, status := writeFlag (clearFineValid s.status) .fineValid true }
  | temp (i : Instr) (s : State) (v : Int) (hi : i = .temp ∨ i = .comp) (hfine : readFlag s.status .fineValid = true)
      (hv : tempOf (sext s.fineT) = .ok v) :
      Update i s { s with tempC100 := BitVec.ofInt 32 v, status := writeFlag s.status .tValid true }
  | sentinel (i : Instr) (s : State) (hi : i = .press ∨ i = .comp) (hfine : readFlag s.status .fineValid = true)
      (hp : pressureOf s.rawP s.fineT s.coef = .ok .sentinel) :
      Update i s { s with pressQ8 := 0#64, status := writeFlag (writeFlag s.status .pValid true) .pSent true }
  | press (i : Instr) (s : State) (r : Int) (hi : i = .press ∨ i = .comp) (hfine : readFlag s.status .fineValid = true)
      (hp : pressureOf s.rawP s.fineT s.coef = .ok (.value r)) :
      Update i s { s with pressQ8 := BitVec.ofInt 64 r, status := writeFlag (writeFlag s.status .pValid true) .pSent false }
  | write (s : State) (off v : Byte) (hidle : readFlag s.status .busy = false) : Update (.wr off v) s (writeLoc s v (locate off))
  | read (s : State) (off : Byte) : Update (.rd off) s (memRead s off)

/-- Updates of one instruction, one after another. -/
def Updates (i : Instr) : State → State → Prop := Relation.ReflTransGen (Update i)

/-- The state a stage ends in, before its command completes. -/
def Stage.state : Stage → State
  | .done s => s
  | .raised _ s => s

section Chains

variable {i : Instr} {s t u : State}

theorem Update.single (h : Update i s t) : Updates i s t := Relation.ReflTransGen.single h

theorem Updates.complete (e : ErrCode) (h : Updates i s t) : Updates i s (complete e t) := h.tail (.complete i t e)

theorem Updates.finish {r : Stage} (h : Updates i s r.state) : Updates i s r.finish := by
  cases r with
  | done u => exact h.complete .none
  | raised e u => exact h.complete e

theorem Updates.andThen {r : Stage} {f : State → Stage} (h : Updates i s r.state) (hf : ∀ u, Updates i u (f u).state) :
    Updates i s (r.andThen f).state := by
  cases r with
  | done u => exact h.trans (hf u)
  | raised e u => exact h

theorem loadcalStage_updates (s : State) : Updates .loadcal s (loadcalStage s).state := by
  rcases loadcalStage_cases s with ⟨hvalid, hstage⟩ | ⟨_, hstage⟩ <;> rw [hstage]
  · exact (Update.loadCal s hvalid).single
  · exact (Update.dropCal .loadcal s).single

theorem finetStage_updates (hi : i = .finet ∨ i = .comp) (s : State) : Updates i s (finetStage s).state := by
  rcases finetStage_cases s with ⟨_, hstage⟩ | ⟨f, hcal, hf, hstage⟩ | ⟨e, _, _, hstage⟩ <;> rw [hstage]
  · exact .refl
  · exact (Update.fine i s f hi hcal hf).single
  · exact (Update.clearFine i s).single

theorem tempStage_updates (hi : i = .temp ∨ i = .comp) (s : State) : Updates i s (tempStage s).state := by
  rcases tempStage_cases s with ⟨_, hstage⟩ | ⟨v, hfine, hv, hstage⟩ | ⟨e, _, _, hstage⟩ <;> rw [hstage]
  · exact .refl
  · exact (Update.temp i s v hi hfine hv).single
  · exact (Update.clearTemp i s).single

theorem pressStage_updates (hi : i = .press ∨ i = .comp) (s : State) : Updates i s (pressStage s).state := by
  rcases pressStage_cases s with ⟨_, hstage⟩ | ⟨hfine, hp, hstage⟩ | ⟨r, hfine, hp, hstage⟩ | ⟨e, _, _, hstage⟩ <;> rw [hstage]
  · exact .refl
  · exact (Update.sentinel i s hi hfine hp).single
  · exact (Update.press i s r hi hfine hp).single
  · exact (Update.clearPress i s).single

theorem compStage_updates (s : State) : Updates .comp s (compStage s).state :=
  ((finetStage_updates (.inr rfl) s).andThen (tempStage_updates (.inr rfl))).andThen (pressStage_updates (.inr rfl))

theorem memWrite_updates (s : State) (off v : Byte) : Updates (.wr off v) s (memWrite s off v) := by
  cases hbusy : readFlag s.status .busy with
  | true => rw [memWrite_busy s off v hbusy]; exact .refl
  | false => rw [memWrite_idle s off v hbusy]; exact (Update.write s off v hbusy).single

/-- Every instruction is a chain of its updates. -/
theorem exec_updates (h : exec i s = .next t) : Updates i s t := by
  cases i <;> cases h
  case nop | nopTerr | illegalOp6 | illegalOp8 | illegalRsv4 | illegalRsv5 | illegalRsv6 => exact Updates.complete _ .refl
  case loadcal => exact (loadcalStage_updates s).finish
  case finet => exact (finetStage_updates (.inl rfl) s).finish
  case temp => exact (tempStage_updates (.inl rfl) s).finish
  case press => exact (pressStage_updates (.inl rfl) s).finish
  case comp => exact (compStage_updates s).finish
  case loadcalTerr => exact (Update.dropCal _ s).single.complete _
  case finetTerr | compTerr => exact (Update.clearFine _ s).single.complete _
  case tempTerr => exact (Update.clearTemp _ s).single.complete _
  case pressTerr => exact (Update.clearPress _ s).single.complete _
  case wr off v => exact memWrite_updates s off v
  case rd off => exact (Update.read s off).single

/-- A property that every update keeps is kept by every chain of them. -/
theorem Updates.keeps {P : State → Prop} (hupdate : ∀ {s t}, Update i s t → P s → P t) (h : Updates i s t) (hs : P s) : P t := by
  induction h with
  | refl => exact hs
  | tail _ hlast ih => exact hupdate hlast ih

/-- An engine's turn is the chain of the pending command's updates, an empty one while BUSY = 0. -/
theorem engineStep_updates (hfetch : fetch s = engineTurn u) (h : step s = .next t) : ∃ i, Updates i u t := by
  rcases engineTurn_cases u with ⟨_, hturn⟩ | ⟨_, hturn⟩
  · rw [step_of_fetch_run (hfetch.trans hturn)] at h
    exact ⟨_, exec_updates h⟩
  · rw [step_of_fetch_quiet (hfetch.trans hturn)] at h
    cases h
    exact ⟨.nop, .refl⟩

/-- Every step is a reset, or a chain of one instruction's updates with an input taken or none. -/
theorem step_updates (h : step s = .next t) :
    (∃ rest, t = resetInput { s with inputs := rest }) ∨ ∃ i rest, Updates i { s with inputs := rest } t := by
  rcases fetch_cases s with ⟨_, hf⟩ | ⟨rest, _, hf⟩ | ⟨rest, _, hf⟩ | ⟨w, rest, i, _, _, hf⟩ | ⟨w, rest, e, _, _, hf⟩
  · obtain ⟨i, hchain⟩ := engineStep_updates hf h
    exact .inr ⟨i, s.inputs, hchain⟩
  · obtain ⟨i, hchain⟩ := engineStep_updates hf h
    exact .inr ⟨i, rest, hchain⟩
  · rw [step_of_fetch_quiet hf] at h
    cases h
    exact .inl ⟨rest, rfl⟩
  · rw [step_of_fetch_run hf] at h
    exact .inr ⟨i, rest, exec_updates h⟩
  · rcases step_cases h with ⟨_, _, hrun, _⟩ | hquiet
    · cases hf.symm.trans hrun
    · cases hf.symm.trans hquiet

/-- A property of the reset state that every update keeps, and the taking of an input, is kept by every step. -/
theorem step_keeps {P : State → Prop} (hreset : ∀ s, P (resetInput s)) (hinputs : ∀ {s} rest, P s → P { s with inputs := rest })
    (hupdate : ∀ {i s t}, Update i s t → P s → P t) (hs : P s) (h : step s = .next t) : P t := by
  rcases step_updates h with ⟨rest, rfl⟩ | ⟨i, rest, hchain⟩
  · exact hreset _
  · exact hchain.keeps hupdate (hinputs rest hs)

end Chains

end Sys2Proof.Machine
end

section
/-! PROOFS. The dependencies of STATUS (10_state.md R40): which flag needs which, and what raising and clearing flags does to the implications. -/

namespace Sys2Proof.Machine

/-- The flag that a set flag implies (10_state.md R38, R40). -/
def Flag.needs : Flag → Option Flag
  | .busy => none
  | .calValid => none
  | .fineValid => some .calValid
  | .tValid => some .fineValid
  | .pValid => some .fineValid
  | .pSent => some .pValid

/-- The part of the register invariants that speaks of STATUS alone. -/
structure StatusShape (st : Byte) : Prop where
  reserved : st.getLsbD 6 = false ∧ st.getLsbD 7 = false
  closed : ∀ f g : Flag, f.needs = some g → readFlag st f = true → readFlag st g = true

/-- `st'` is `st` with the bits of `p` cleared, and `p` has with a flag all that need it (10_state.md R35 to R38). -/
structure ClearsFlags (p : Nat → Prop) [DecidablePred p] (st st' : Byte) : Prop where
  bits : ∀ k, st'.getLsbD k = if p k then false else st.getLsbD k
  withCal : p 1 → p 2
  withFine : p 2 → p 3 ∧ p 4
  withPress : p 4 → p 5

theorem clearsFlags_none (st : Byte) : ClearsFlags (fun _ => False) st st := by constructor <;> simp

theorem clearsFlags_busy (st : Byte) : ClearsFlags (fun k => k = flagBit .busy) st (writeFlag st .busy false) :=
  ⟨getLsbD_writeFlag st .busy false, by decide, by decide, by decide⟩

theorem clearsFlags_pSent (st : Byte) : ClearsFlags (fun k => k = flagBit .pSent) st (writeFlag st .pSent false) :=
  ⟨getLsbD_writeFlag st .pSent false, by decide, by decide, by decide⟩

theorem clearsFlags_clearPValid (st : Byte) : ClearsFlags (fun k => k = 4 ∨ k = 5) st (clearPValid st) :=
  ⟨getLsbD_clearPValid st, by decide, by decide, by decide⟩

theorem clearsFlags_clearTValid (st : Byte) : ClearsFlags (fun k => k = 3) st (clearTValid st) :=
  ⟨getLsbD_clearTValid st, by decide, by decide, by decide⟩

theorem clearsFlags_clearFineValid (st : Byte) : ClearsFlags (fun k => 2 ≤ k ∧ k ≤ 5) st (clearFineValid st) :=
  ⟨getLsbD_clearFineValid st, by decide, by decide, by decide⟩

theorem clearsFlags_clearCalValid (st : Byte) : ClearsFlags (fun k => 1 ≤ k ∧ k ≤ 5) st (clearCalValid st) :=
  ⟨getLsbD_clearCalValid st, by decide, by decide, by decide⟩

section

variable {p : Nat → Prop} [DecidablePred p] {st st' : Byte} {f g : Flag}

theorem ClearsFlags.readFlag_iff (h : ClearsFlags p st st') : readFlag st' f = true ↔ ¬p (flagBit f) ∧ readFlag st f = true := by
  simp [readFlag_eq, h.bits]

theorem ClearsFlags.of_needs (h : ClearsFlags p st st') (hneeds : f.needs = some g) : p (flagBit g) → p (flagBit f) := by
  cases f <;> cases hneeds
  exacts [h.withCal, fun hp => (h.withFine hp).1, fun hp => (h.withFine hp).2, h.withPress]

theorem StatusShape.clear (h : StatusShape st) (hclear : ClearsFlags p st st') : StatusShape st' := by
  constructor
  · simp only [hclear.bits, h.reserved, ite_self, and_self]
  · intro f g hneeds hf
    rw [hclear.readFlag_iff] at hf ⊢
    exact ⟨fun hp => hf.1 (hclear.of_needs hneeds hp), h.closed f g hneeds hf.2⟩

theorem StatusShape.raise (h : StatusShape st) (hneeds : ∀ g, f.needs = some g → readFlag st g = true) :
    StatusShape (writeFlag st f true) := by
  constructor
  · cases f <;> simpa [getLsbD_writeFlag, flagBit] using h.reserved
  · intro f' g hneeds' hf
    rw [readFlag_writeFlag] at hf ⊢
    split at hf
    case isTrue heq =>
      subst heq
      simp [hneeds g hneeds']
    case isFalse => simp [h.closed f' g hneeds' hf]

end

end Sys2Proof.Machine
end

section
/-! PROOFS. The register invariants, kept by every update (10_state.md R33 to R41, R46, R47). -/

namespace Sys2Proof.Machine

variable {s : State} {st : Byte}

theorem State.Inv.shape (h : s.Inv) : StatusShape s.status := by
  refine ⟨h.statusReserved, fun f g hneeds => ?_⟩
  cases f <;> cases hneeds
  exacts [h.fineNeedsCal, h.tempNeedsFine, h.pressNeedsFine, h.sentNeedsPress]

/-- The invariants of the registers, from those of STATUS alone. -/
theorem State.Inv.of_shape (hshape : StatusShape s.status) (errCode : s.err.toNat ≤ 6)
    (idlePending : readFlag s.status .busy = false → s.pending = 0x00#8)
    (sentIsZero : readFlag s.status .pSent = true → s.pressQ8 = 0#64)
    (calibrated : readFlag s.status .calValid = true → s.coef.t1 ≠ 0#16 ∧ s.coef.p1 ≠ 0#16)
    (fineRange : -4194145 ≤ s.fineT.toInt ∧ s.fineT.toInt ≤ 4194144)
    (tempRange : -81917 ≤ s.tempC100.toInt ∧ s.tempC100.toInt ≤ 81917) : s.Inv where
  statusReserved := hshape.reserved
  errCode := errCode
  idlePending := idlePending
  fineNeedsCal := hshape.closed .fineValid .calValid rfl
  tempNeedsFine := hshape.closed .tValid .fineValid rfl
  pressNeedsFine := hshape.closed .pValid .fineValid rfl
  sentNeedsPress := hshape.closed .pSent .pValid rfl
  sentIsZero := sentIsZero
  calibrated := calibrated
  fineRange := fineRange
  tempRange := tempRange

/-- Clearing flags other than BUSY keeps the invariants, whatever becomes of the registers they do not speak of. -/
theorem State.Inv.clear {p : Nat → Prop} [DecidablePred p] {rawT rawP : BitVec 24} {calraw : Vector Byte 24} {calWmask : BitVec 24} {reply : Byte}
    {draws : Nat} {inputs : List Input} (h : s.Inv) (hclear : ClearsFlags p s.status st) (hbusy : ¬p 0) :
    State.Inv { s with status := st, rawT := rawT, rawP := rawP, calraw := calraw, calWmask := calWmask, reply := reply, draws := draws,
                       inputs := inputs } := by
  refine .of_shape (h.shape.clear hclear) h.errCode ?_ (fun hsent => h.sentIsZero (hclear.readFlag_iff.mp hsent).2)
    (fun hcal => h.calibrated (hclear.readFlag_iff.mp hcal).2) h.fineRange h.tempRange
  have hkept : readFlag st .busy = readFlag s.status .busy := (hclear.bits 0).trans (if_neg hbusy)
  exact fun hidle => h.idlePending (hkept ▸ hidle)

theorem inv_reset : State.reset.Inv := by
  constructor <;> decide

theorem inv_resetInput (s : State) : (resetInput s).Inv := inv_reset.clear (clearsFlags_none State.reset.status) id

theorem State.Inv.withInputs (h : s.Inv) (rest : List Input) : State.Inv { s with inputs := rest } :=
  h.clear (clearsFlags_none s.status) id

theorem State.Inv.writeLoc (h : s.Inv) (v : Byte) (l : Loc) : (writeLoc s v l).Inv := by
  cases l with
  | cmd =>
    refine .of_shape (h.shape.raise nofun) h.errCode ?_ ?_ ?_ h.fineRange h.tempRange
    · simp [Machine.writeLoc, flagBit]
    · simpa [Machine.writeLoc, flagBit] using h.sentIsZero
    · simpa [Machine.writeLoc, flagBit] using h.calibrated
  | rawT k => exact h.clear (clearsFlags_clearFineValid s.status) (by decide)
  | rawP k => exact h.clear (clearsFlags_clearPValid s.status) (by decide)
  | calraw i => exact h.clear (clearsFlags_none s.status) id
  | _ => exact h

theorem State.Inv.complete (h : s.Inv) (e : ErrCode) : (complete e s).Inv := by
  refine .of_shape (h.shape.clear (clearsFlags_busy s.status)) (errByte_le e) (fun _ => rfl) ?_ ?_ h.fineRange h.tempRange
  · simpa [flagBit] using h.sentIsZero
  · simpa [flagBit] using h.calibrated

/-- The registers of FINE_T and TEMP_C100 get values of their ranges, for which the calibration behind CAL_VALID is needed (41_temperature.md R133, R136). -/
theorem State.Inv.update {i : Instr} {t : State} (hupdate : Update i s t) (h : s.Inv) : t.Inv := by
  cases hupdate with
  | complete _ _ e => exact h.complete e
  | clearPress => exact h.clear (clearsFlags_clearPValid s.status) (by decide)
  | clearTemp => exact h.clear (clearsFlags_clearTValid s.status) (by decide)
  | clearFine => exact h.clear (clearsFlags_clearFineValid s.status) (by decide)
  | dropCal => exact h.clear (clearsFlags_clearCalValid s.status) (by decide)
  | loadCal _ hvalid =>
    refine .of_shape ((h.shape.clear (clearsFlags_clearCalValid s.status)).raise nofun) h.errCode ?_ ?_ ?_ h.fineRange h.tempRange
    · simpa [flagBit] using h.idlePending
    · simp [flagBit]
    · exact fun _ => ((calibrationValid_iff _ _).mp hvalid).2
  | fine _ _ f _ hcal hf =>
    have hrange := fineOf_range hf
    have htight := hrange.2.2 (h.calibrated hcal).1
    refine .of_shape ((h.shape.clear (clearsFlags_clearFineValid s.status)).raise ?_) h.errCode ?_ ?_ ?_ ?_ h.tempRange
    · rintro g ⟨⟩
      simpa using hcal
    · simpa [flagBit] using h.idlePending
    · simp [flagBit]
    · simpa [flagBit] using h.calibrated
    · rw [toInt_ofInt_32 (by omega)]
      omega
  | temp _ _ v _ hfine hv =>
    have hrange := h.fineRange
    have hvalue : v = (s.fineT.toInt * 5 + 128) / 256 := tempOf_eq_ok hv
    refine .of_shape (h.shape.raise ?_) h.errCode ?_ ?_ ?_ h.fineRange ?_
    · rintro g ⟨⟩
      exact hfine
    · simpa [flagBit] using h.idlePending
    · simpa [flagBit] using h.sentIsZero
    · simpa [flagBit] using h.calibrated
    · rw [toInt_ofInt_32 (by omega)]
      omega
  | sentinel _ _ _ hfine =>
    refine .of_shape ((h.shape.raise ?_).raise ?_) h.errCode ?_ (fun _ => rfl) ?_ h.fineRange h.tempRange
    · rintro g ⟨⟩
      exact hfine
    · rintro g ⟨⟩
      simp [flagBit]
    · simpa [flagBit] using h.idlePending
    · simpa [flagBit] using h.calibrated
  | press _ _ r _ hfine =>
    refine .of_shape ((h.shape.raise ?_).clear (clearsFlags_pSent _)) h.errCode ?_ ?_ ?_ h.fineRange h.tempRange
    · rintro g ⟨⟩
      exact hfine
    · simpa [flagBit] using h.idlePending
    · simp [flagBit]
    · simpa [flagBit] using h.calibrated
  | write _ off v => exact h.writeLoc v (locate off)
  | read _ off =>
    rw [memRead_eq]
    exact h.clear (clearsFlags_none s.status) id

end Sys2Proof.Machine
end

section
/-! PROOFS. The obligations of 10_state.md on the registers. -/

namespace Sys2Proof.Proofs

open Sys2Proof Sys2Proof.Machine

/-- Settles O51: the reset state meets the invariants, and every update keeps them. -/
theorem everyStepKeepsTheRegisterInvariants : Obligations.EveryStepKeepsTheRegisterInvariants := by
  intro s t hs hstep
  exact step_keeps inv_resetInput (fun rest h => h.withInputs rest) State.Inv.update hs hstep

end Sys2Proof.Proofs
end

section
/-! PROOFS. No valid bit over a stale result, kept by every update (10_state.md R33, R36 to R39; 60_exceptions.md R181). -/

namespace Sys2Proof.Machine

variable {s : State} {st : Byte}

/-- Where no result is valid, none is stale. -/
theorem State.Fresh.of_none_valid (hfine : readFlag s.status .fineValid = false) (htemp : readFlag s.status .tValid = false)
    (hpress : readFlag s.status .pValid = false) : s.Fresh := by
  constructor <;> simp_all only [Bool.false_eq_true, false_implies]

/-- Clearing flags keeps every result fresh, P_SENT going only with P_VALID, whatever becomes of the registers no result is computed from. -/
theorem State.Fresh.clear {p : Nat → Prop} [DecidablePred p] {err : Byte} {calraw : Vector Byte 24} {calWmask : BitVec 24} {pending reply : Byte}
    {draws : Nat} {inputs : List Input} (h : s.Fresh) (hclear : ClearsFlags p s.status st) (hsent : p 5 → p 4) :
    State.Fresh { s with status := st, err := err, calraw := calraw, calWmask := calWmask, pending := pending, reply := reply, draws := draws,
                         inputs := inputs } := by
  constructor
  · exact fun hfine => h.fine (hclear.readFlag_iff.mp hfine).2
  · exact fun htemp => h.temp (hclear.readFlag_iff.mp htemp).2
  · intro hvalid hvalue
    obtain ⟨hkept, hvalid⟩ := hclear.readFlag_iff.mp hvalid
    exact h.pressValue hvalid (((hclear.bits 5).trans (if_neg (mt hsent hkept))).symm.trans hvalue)
  · exact fun hvalid hsentinel => h.pressSentinel (hclear.readFlag_iff.mp hvalid).2 (hclear.readFlag_iff.mp hsentinel).2

theorem fresh_reset : State.reset.Fresh := .of_none_valid (by decide) (by decide) (by decide)

theorem fresh_resetInput (s : State) : (resetInput s).Fresh := fresh_reset.clear (clearsFlags_none State.reset.status) id

theorem State.Fresh.withInputs (h : s.Fresh) (rest : List Input) : State.Fresh { s with inputs := rest } :=
  h.clear (clearsFlags_none s.status) id

/-- A write to a raw register clears the results computed from it. -/
theorem State.Fresh.writeLoc (h : s.Fresh) (v : Byte) (l : Loc) : (writeLoc s v l).Fresh := by
  cases l with
  | cmd =>
    constructor
    · simpa [Machine.writeLoc, flagBit] using h.fine
    · simpa [Machine.writeLoc, flagBit] using h.temp
    · simpa [Machine.writeLoc, flagBit] using h.pressValue
    · simpa [Machine.writeLoc, flagBit] using h.pressSentinel
  | rawT k => exact .of_none_valid (by simp [Machine.writeLoc]) (by simp [Machine.writeLoc]) (by simp [Machine.writeLoc])
  | rawP k =>
    constructor
    · simpa [Machine.writeLoc] using h.fine
    · simpa [Machine.writeLoc] using h.temp
    · simp [Machine.writeLoc]
    · simp [Machine.writeLoc]
  | calraw i => exact h.clear (clearsFlags_none s.status) id
  | _ => exact h

/-- A stage sets its valid bit over the value it computes, which its register holds whole, and clears the bits of the results computed from that
register; LOADCAL, which writes the coefficients, clears every one. -/
theorem State.Fresh.update {i : Instr} {t : State} (hupdate : Update i s t) (h : s.Fresh) : t.Fresh := by
  cases hupdate with
  | complete => exact h.clear (clearsFlags_busy s.status) (by decide)
  | clearPress => exact h.clear (clearsFlags_clearPValid s.status) (by decide)
  | clearTemp => exact h.clear (clearsFlags_clearTValid s.status) (by decide)
  | clearFine => exact h.clear (clearsFlags_clearFineValid s.status) (by decide)
  | dropCal => exact h.clear (clearsFlags_clearCalValid s.status) (by decide)
  | loadCal => exact .of_none_valid (by simp [flagBit]) (by simp [flagBit]) (by simp [flagBit])
  | fine _ _ f _ _ hf =>
    have hrange := fineOf_range hf
    have hwhole : sext (BitVec.ofInt 32 f) = f := toInt_ofInt_32 (by omega)
    constructor
    · exact fun _ => hf.trans (congrArg _ hwhole.symm)
    · simp [flagBit]
    · simp [flagBit]
    · simp [flagBit]
  | temp _ _ v _ _ hv =>
    have hrange := sext_range_32 s.fineT
    have hvalue := tempOf_eq_ok hv
    have hwhole : sext (BitVec.ofInt 32 v) = v := toInt_ofInt_32 (by omega)
    constructor
    · simpa [flagBit] using h.fine
    · exact fun _ => hv.trans (congrArg _ hwhole.symm)
    · simpa [flagBit] using h.pressValue
    · simpa [flagBit] using h.pressSentinel
  | sentinel _ _ _ _ hp =>
    constructor
    · simpa [flagBit] using h.fine
    · simpa [flagBit] using h.temp
    · simp [flagBit]
    · exact fun _ _ => hp
  | press _ _ r _ _ hp =>
    have hwhole : sext (BitVec.ofInt 64 r) = r := toInt_ofInt_64 (pressureOf_value_range hp)
    constructor
    · simpa [flagBit] using h.fine
    · simpa [flagBit] using h.temp
    · exact fun _ _ => hp.trans (by rw [hwhole])
    · simp [flagBit]
  | write _ off v => exact h.writeLoc v (locate off)
  | read _ off =>
    rw [memRead_eq]
    exact h.clear (clearsFlags_none s.status) id

end Sys2Proof.Machine
end

section
/-! PROOFS. The obligation of 10_state.md on the meaning of the valid bits. -/

namespace Sys2Proof.Proofs

open Sys2Proof Sys2Proof.Machine

/-- Settles O52: no result is valid after reset, and every update keeps the valid results fresh. -/
theorem noValidBitStandsOverAStaleResult : Obligations.NoValidBitStandsOverAStaleResult := by
  intro s t hs hstep
  exact step_keeps fresh_resetInput (fun rest h => h.withInputs rest) State.Fresh.update hs hstep

end Sys2Proof.Proofs
end

section
/-! PROOFS. Which instruction may raise a flag of STATUS, and which may write a coefficient or a result register (10_state.md R33 to R39, R45 to R48). -/

namespace Sys2Proof.Machine

/-- The instructions that may set a flag (10_state.md R33 to R39). -/
def MayRaise (i : Instr) : Flag → Prop
  | .busy => ∃ v : Byte, i = .wr 0x00#8 v
  | .calValid => i = .loadcal
  | .fineValid => i = .finet ∨ i = .comp
  | .tValid => i = .temp ∨ i = .comp
  | .pValid => i = .press ∨ i = .comp
  | .pSent => i = .press ∨ i = .comp

theorem locate_eq_cmd {off : Byte} (h : locate off = .cmd) : off = 0x00#8 :=
  locate_injective (h.trans rfl) (by rw [h]; decide)

theorem eq_or_readFlag_of_writeFlag {st : Byte} {f g : Flag} {b : Bool} (h : readFlag (writeFlag st f b) g = true) :
    g = f ∨ readFlag st g = true := by
  rw [readFlag_writeFlag] at h
  split at h
  case isTrue heq => exact .inl heq
  case isFalse => exact .inr h

section

variable {i : Instr} {s t : State} {f : Flag}

/-- The stage or the host write that raised a flag is one of those that may. -/
theorem Update.raises (hupdate : Update i s t) (hset : readFlag t.status f = true) : readFlag s.status f = true ∨ MayRaise i f := by
  cases hupdate with
  | complete => exact .inl ((clearsFlags_busy s.status).readFlag_iff.mp hset).2
  | clearPress => exact .inl ((clearsFlags_clearPValid s.status).readFlag_iff.mp hset).2
  | clearTemp => exact .inl ((clearsFlags_clearTValid s.status).readFlag_iff.mp hset).2
  | clearFine => exact .inl ((clearsFlags_clearFineValid s.status).readFlag_iff.mp hset).2
  | dropCal => exact .inl ((clearsFlags_clearCalValid s.status).readFlag_iff.mp hset).2
  | loadCal =>
    rcases eq_or_readFlag_of_writeFlag hset with rfl | hset
    · exact .inr rfl
    · exact .inl ((clearsFlags_clearCalValid s.status).readFlag_iff.mp hset).2
  | fine _ _ _ hi =>
    rcases eq_or_readFlag_of_writeFlag hset with rfl | hset
    · exact .inr hi
    · exact .inl ((clearsFlags_clearFineValid s.status).readFlag_iff.mp hset).2
  | temp _ _ _ hi =>
    rcases eq_or_readFlag_of_writeFlag hset with rfl | hset
    · exact .inr hi
    · exact .inl hset
  | sentinel _ _ hi | press _ _ _ hi =>
    rcases eq_or_readFlag_of_writeFlag hset with rfl | hset
    · exact .inr hi
    rcases eq_or_readFlag_of_writeFlag hset with rfl | hset
    · exact .inr hi
    · exact .inl hset
  | write _ off v =>
    have hbit : flagBit f < 8 := by cases f <;> decide
    rw [readFlag_eq, BitVec.getLsbD_eq_getElem hbit] at hset
    rcases writeLoc_status_le s v (locate off) (flagBit f) hbit hset with hset | ⟨hf, hcmd⟩
    · exact .inl ((BitVec.getLsbD_eq_getElem hbit).trans hset)
    · cases f <;> cases hf
      exact .inr ⟨v, by rw [locate_eq_cmd hcmd]⟩
  | read => exact .inl (by simpa only [memRead_status] using hset)

theorem Update.coef_eq (hupdate : Update i s t) (hi : i ≠ .loadcal) : t.coef = s.coef := by
  cases hupdate with
  | loadCal => exact absurd rfl hi
  | write _ off v => exact writeLoc_coef s v (locate off)
  | read _ off => exact memRead_coef s off
  | _ => rfl

theorem Update.fineT_eq (hupdate : Update i s t) (hi : ¬(i = .finet ∨ i = .comp)) : t.fineT = s.fineT := by
  cases hupdate with
  | fine _ _ _ hstage => exact absurd hstage hi
  | write _ off v => exact writeLoc_fineT s v (locate off)
  | read _ off => exact memRead_fineT s off
  | _ => rfl

theorem Update.tempC100_eq (hupdate : Update i s t) (hi : ¬(i = .temp ∨ i = .comp)) : t.tempC100 = s.tempC100 := by
  cases hupdate with
  | temp _ _ _ hstage => exact absurd hstage hi
  | write _ off v => exact writeLoc_tempC100 s v (locate off)
  | read _ off => exact memRead_tempC100 s off
  | _ => rfl

theorem Update.pressQ8_eq (hupdate : Update i s t) (hi : ¬(i = .press ∨ i = .comp)) : t.pressQ8 = s.pressQ8 := by
  cases hupdate with
  | sentinel _ _ hstage | press _ _ _ hstage => exact absurd hstage hi
  | write _ off v => exact writeLoc_pressQ8 s v (locate off)
  | read _ off => exact memRead_pressQ8 s off
  | _ => rfl

/-- A flag set after an instruction was set before it, or the instruction may raise it. -/
theorem exec_raises (hexec : exec i s = .next t) : readFlag t.status f = true → readFlag s.status f = true ∨ MayRaise i f := by
  refine (exec_updates hexec).keeps (P := fun u => readFlag u.status f = true → readFlag s.status f = true ∨ MayRaise i f) ?_ .inl
  intro u v hupdate hu hset
  exact (hupdate.raises hset).elim hu .inr

/-- What every update of an instruction leaves as it is, the instruction does. -/
theorem exec_leaves {α : Type} {r : State → α} (hupdate : ∀ {u v}, Update i u v → r v = r u) (hexec : exec i s = .next t) : r t = r s :=
  (exec_updates hexec).keeps (P := fun u => r u = r s) (fun hu h => (hupdate hu).trans h) rfl

/-- An instruction by which a flag rises or the register of its result changes is one that may raise the flag. -/
theorem mayRaise_of_raised_or_written {α : Type} {r : State → α} (hexec : exec i s = .next t)
    (hkeep : ∀ {u v}, Update i u v → ¬MayRaise i f → r v = r u)
    (hchange : readFlag s.status f = false ∧ readFlag t.status f = true ∨ r t ≠ r s) : MayRaise i f := by
  by_contra hi
  rcases hchange with ⟨hclear, hset⟩ | hwritten
  · rcases exec_raises hexec hset with hset | hmay
    · exact absurd hset (by rw [hclear]; decide)
    · exact hi hmay
  · exact hwritten (exec_leaves (fun hu => hkeep hu hi) hexec)

theorem mayRaise_of_raised (hexec : exec i s = .next t) (hchange : readFlag s.status f = false ∧ readFlag t.status f = true) : MayRaise i f :=
  mayRaise_of_raised_or_written (r := fun _ => ()) hexec (fun _ _ => rfl) (.inl hchange)

end

end Sys2Proof.Machine
end

section
/-! PROOFS. The obligations of 10_state.md on who writes a register or sets a valid bit. -/

namespace Sys2Proof.Proofs

open Sys2Proof Sys2Proof.Machine

/-- Settles O25: no update of another instruction writes a coefficient, and none may raise CAL_VALID. -/
theorem onlyLoadcalWritesTheCoefficients : Obligations.OnlyLoadcalWritesTheCoefficients := by
  intro i s t hexec hi
  exact ⟨exec_leaves (fun hu => hu.coef_eq hi) hexec, fun hset => (exec_raises hexec hset).resolve_right hi⟩

/-- Settles O44, flag by flag with the register of its result. -/
theorem everyValidBitIsSetOnlyByItsStage : Obligations.EveryValidBitIsSetOnlyByItsStage := by
  intro i s t hexec
  refine ⟨?_, ?_, ?_, ?_, ?_⟩
  · exact mayRaise_of_raised_or_written (f := .fineValid) hexec Update.fineT_eq
  · exact mayRaise_of_raised_or_written (f := .tValid) hexec Update.tempC100_eq
  · exact mayRaise_of_raised_or_written (f := .pValid) hexec Update.pressQ8_eq
  · exact mayRaise_of_raised (f := .pSent) hexec
  · exact mayRaise_of_raised (f := .busy) hexec

end Sys2Proof.Proofs
end

section
/-! PROOFS. The register map read forwards (20_memory.md R83), beside `locate_rawT`, `locate_rawP` and `locate_calraw`, and the two offsets
that stand alone. -/

namespace Sys2Proof.Machine

variable {off : Byte}

theorem locateNat_fineT : ∀ k : Fin 4, locateNat (0x28 + k.val) = .fineT k := by decide

theorem locateNat_tempC100 : ∀ k : Fin 4, locateNat (0x2C + k.val) = .tempC100 k := by decide

theorem locateNat_pressQ8 : ∀ k : Fin 8, locateNat (0x30 + k.val) = .pressQ8 k := by decide

theorem locateNat_coef : ∀ (i : Fin 12) (k : Fin 2), locateNat (0x40 + 2 * i.val + k.val) = .coef i k := by decide

theorem locate_fineT {k : Nat} (hk : k < 4) (h : off.toNat = 0x28 + k) : locate off = .fineT ⟨k, hk⟩ :=
  (congrArg locateNat h).trans (locateNat_fineT ⟨k, hk⟩)

theorem locate_tempC100 {k : Nat} (hk : k < 4) (h : off.toNat = 0x2C + k) : locate off = .tempC100 ⟨k, hk⟩ :=
  (congrArg locateNat h).trans (locateNat_tempC100 ⟨k, hk⟩)

theorem locate_pressQ8 {k : Nat} (hk : k < 8) (h : off.toNat = 0x30 + k) : locate off = .pressQ8 ⟨k, hk⟩ :=
  (congrArg locateNat h).trans (locateNat_pressQ8 ⟨k, hk⟩)

theorem locate_coef {i k : Nat} (hi : i < 12) (hk : k < 2) (h : off.toNat = 0x40 + 2 * i + k) : locate off = .coef ⟨i, hi⟩ ⟨k, hk⟩ :=
  (congrArg locateNat h).trans (locateNat_coef ⟨i, hi⟩ ⟨k, hk⟩)

theorem locate_reserved
    (h : off.toNat = 0x03 ∨ off.toNat = 0x07 ∨ (0x0B ≤ off.toNat ∧ off.toNat ≤ 0x0F) ∨ (0x38 ≤ off.toNat ∧ off.toNat ≤ 0x3F) ∨ 0x58 ≤ off.toNat) :
    locate off = .reserved := by
  rcases locate_cases off with h' | h' | h' | ⟨_, h'⟩ | ⟨_, h'⟩ | ⟨_, h'⟩ | ⟨_, h'⟩ | ⟨_, h'⟩ | ⟨_, h'⟩ | ⟨_, _, h'⟩ | ⟨_, hloc⟩
  case inr.inr.inr.inr.inr.inr.inr.inr.inr.inr => exact hloc
  all_goals omega

theorem locate_eq_status_iff : locate off = .status ↔ off = 0x01#8 := by
  constructor
  · intro h
    exact locate_injective (h.trans rfl) (by rw [h]; decide)
  · rintro rfl
    rfl

end Sys2Proof.Machine
end

section
/-! PROOFS. What a host read and a host write do to CE, once for BUSY = 0 and once for BUSY = 1 (20_memory.md R71 to R77, R82). -/

namespace Sys2Proof.Machine

variable {s : State} {off v : Byte} {l l' : Loc}

theorem exec_wr_idle (h : readFlag s.status .busy = false) : exec (.wr off v) s = .next (writeLoc s v (locate off)) :=
  congrArg Host.Outcome.next (memWrite_idle s off v h)

theorem exec_wr_busy (h : readFlag s.status .busy = true) : exec (.wr off v) s = .next s :=
  congrArg Host.Outcome.next (memWrite_busy s off v h)

theorem exec_rd_idle (h : readFlag s.status .busy = false) : exec (.rd off) s = .next { s with reply := readOff s off } :=
  congrArg Host.Outcome.next (memRead_idle s off h)

theorem memRead_busy (h : readFlag s.status .busy = true) : memRead s off =
    { s with reply := if off = 0x01#8 then statusDraw (Config.freeByte s.draws) else Config.freeByte s.draws, draws := s.draws + 1 } := by
  unfold memRead
  rw [if_pos h]
  split
  next hloc => rw [if_pos (locate_eq_status_iff.mp hloc)]
  next hloc => rw [if_neg (mt locate_eq_status_iff.mpr hloc)]

/-- The locations whose byte a host write replaces and a host read returns: the raw registers and the staging bytes. -/
def Loc.isStored : Loc → Bool
  | .rawT _ | .rawP _ | .calraw _ => true
  | _ => false

theorem isStored_locate
    (h : (0x04 ≤ off.toNat ∧ off.toNat ≤ 0x06) ∨ (0x08 ≤ off.toNat ∧ off.toNat ≤ 0x0A) ∨ (0x10 ≤ off.toNat ∧ off.toNat ≤ 0x27)) :
    (locate off).isStored = true := by
  rcases h with ⟨hlo, hhi⟩ | ⟨hlo, hhi⟩ | ⟨hlo, hhi⟩
  · rw [locate_rawT (k := off.toNat - 0x04) (by omega) (by omega)]; rfl
  · rw [locate_rawP (k := off.toNat - 0x08) (by omega) (by omega)]; rfl
  · rw [locate_calraw (i := off.toNat - 0x10) (by omega) (by omega)]; rfl

/-- Only a write to CMD changes BUSY. -/
theorem readFlag_busy_writeLoc (h : l ≠ .cmd) : readFlag (writeLoc s v l).status .busy = readFlag s.status .busy := by
  cases l with
  | cmd => exact absurd rfl h
  | rawT | rawP => simp [writeLoc]
  | _ => rfl

theorem readLoc_writeLoc_same (h : l.isStored = true) : readLoc (writeLoc s v l) l = v := by
  cases l with
  | rawT k => exact (byteAt_setByteAt s.rawT k k v (by omega) (by omega)).trans (if_pos rfl)
  | rawP k => exact (byteAt_setByteAt s.rawP k k v (by omega) (by omega)).trans (if_pos rfl)
  | calraw i => exact Vector.getElem_set_self i.isLt
  | _ => cases h

/-- A write reaches no byte but its own and STATUS. -/
theorem readLoc_writeLoc_of_ne (h : l' ≠ l) (hstatus : l' ≠ .status) : readLoc (writeLoc s v l) l' = readLoc s l' := by
  cases l' with
  | status => exact absurd rfl hstatus
  | rawT j =>
    cases l with
    | rawT k => exact (byteAt_setByteAt s.rawT k j v (by omega) (by omega)).trans (if_neg fun hval => h (congrArg Loc.rawT (Fin.ext hval)))
    | _ => rfl
  | rawP j =>
    cases l with
    | rawP k => exact (byteAt_setByteAt s.rawP k j v (by omega) (by omega)).trans (if_neg fun hval => h (congrArg Loc.rawP (Fin.ext hval)))
    | _ => rfl
  | calraw j =>
    cases l with
    | calraw i => exact Vector.getElem_set_ne i.isLt j.isLt fun hval => h (congrArg Loc.calraw (Fin.ext hval.symm))
    | _ => rfl
  | _ => cases l <;> rfl

end Sys2Proof.Machine
end

section
/-! PROOFS. STATUS bit by bit after a host write while BUSY = 0 (20_memory.md R72 to R74), and the mask of the staging bytes (R75). -/

namespace Sys2Proof.Machine

variable {st : Byte}

theorem statusAfter_writeFlag_busy (st : Byte) :
    StatusAfter st (writeFlag st .busy true) true (st.getLsbD 1) (st.getLsbD 2) (st.getLsbD 3) (st.getLsbD 4) (st.getLsbD 5) := by
  constructor <;> simp [flagBit]

theorem statusAfter_clearFineValid (h : readFlag st .busy = false) :
    StatusAfter st (clearFineValid st) false (st.getLsbD 1) false false false false := by
  constructor
  case busy => simpa using h
  all_goals simp

theorem statusAfter_clearPValid (h : readFlag st .busy = false) :
    StatusAfter st (clearPValid st) false (st.getLsbD 1) (st.getLsbD 2) (st.getLsbD 3) false false := by
  constructor
  case busy => simpa using h
  all_goals simp

theorem getLsbD_or_one_shiftLeft {n : Nat} (m : BitVec n) (i : Nat) {j : Nat} (hj : j < n) :
    (m ||| 1#n <<< i).getLsbD j = if j = i then true else m.getLsbD j := by
  rcases lt_trichotomy j i with hlt | rfl | hgt
  · simp [hlt, hlt.ne]
  · simp [hj]
  · simp [hgt.ne', hgt.not_gt, Nat.sub_ne_zero_of_lt hgt]

end Sys2Proof.Machine
end

section
/-! PROOFS. The bytes of a register, least significant first, make up its value (20_memory.md R79, 30_encoding.md R106). -/

namespace Sys2Proof.Machine

variable {n : Nat}

theorem toNat_byteAt (v : BitVec n) (k : Nat) : (byteAt v k).toNat = v.toNat / 2 ^ (8 * k) % 256 := by
  simp [byteAt, Nat.shiftRight_eq_div_pow]

/-- The bytes above the lowest are those of the register shifted down by one byte. -/
theorem byteAt_succ (v : BitVec n) (k : Nat) : byteAt v (k + 1) = byteAt (v >>> 8) k := by
  apply BitVec.eq_of_toNat_eq
  rw [toNat_byteAt, toNat_byteAt, BitVec.toNat_ushiftRight, Nat.shiftRight_eq_div_pow, Nat.div_div_eq_div_mul, ← pow_add, Nat.mul_succ, Nat.add_comm]

theorem assembleBytes_byteAt (m : Nat) (v : BitVec n) : assembleBytes ((List.range m).map (byteAt v)) = v.toNat % 2 ^ (8 * m) := by
  induction m generalizing v with
  | zero => simp [assembleBytes, Nat.mod_one]
  | succ m ih =>
    have hupper : (List.range m).map (byteAt v ∘ Nat.succ) = (List.range m).map (byteAt (v >>> 8)) :=
      List.map_congr_left fun k _ => byteAt_succ v k
    calc assembleBytes ((List.range (m + 1)).map (byteAt v))
      _ = (byteAt v 0).toNat + 256 * assembleBytes ((List.range m).map (byteAt (v >>> 8))) := by
        rw [List.range_succ_eq_map, List.map_cons, List.map_map, hupper, assembleBytes]
      _ = v.toNat % 256 + 256 * (v.toNat / 256 % 2 ^ (8 * m)) := by
        rw [ih, toNat_byteAt, BitVec.toNat_ushiftRight, Nat.shiftRight_eq_div_pow, Nat.mul_zero, pow_zero, Nat.div_one]
      _ = v.toNat % (2 ^ 8 * 2 ^ (8 * m)) := Nat.mod_mul.symm
      _ = v.toNat % 2 ^ (8 * (m + 1)) := by rw [← pow_add, Nat.mul_succ, Nat.add_comm]

/-- Reads of ascending offsets, each of which finds its byte of a register of m bytes, assemble to the register. -/
theorem assembleBytes_readOff {s : State} {base : Byte} {m : Nat} (v : BitVec (8 * m)) (hbase : base.toNat + m ≤ 256)
    (hread : ∀ k off, k < m → off.toNat = base.toNat + k → readOff s off = byteAt v k) :
    assembleBytes ((List.range m).map fun k => readOff s (base + BitVec.ofNat 8 k)) = v.toNat := by
  have hbytes : ((List.range m).map fun k => readOff s (base + BitVec.ofNat 8 k)) = (List.range m).map (byteAt v) := by
    refine List.map_congr_left fun k hk => hread k _ (List.mem_range.mp hk) ?_
    have hlt := List.mem_range.mp hk
    rw [BitVec.toNat_add, BitVec.toNat_ofNat]
    omega
  rw [hbytes, assembleBytes_byteAt, Nat.mod_eq_of_lt v.isLt]

end Sys2Proof.Machine
end

section
/-! PROOFS. What a read while BUSY = 0 finds at an offset of the register map (20_memory.md R77, R79, R83). -/

namespace Sys2Proof.Machine

variable (s : State) {off : Byte} {k : Nat}

theorem readOff_of_locate {l : Loc} (h : locate off = l) : readOff s off = readLoc s l := congrArg (readLoc s) h

theorem readOff_fineT (hk : k < 4) (h : off.toNat = 0x28 + k) : readOff s off = byteAt s.fineT k :=
  readOff_of_locate s (locate_fineT hk h)

theorem readOff_tempC100 (hk : k < 4) (h : off.toNat = 0x2C + k) : readOff s off = byteAt s.tempC100 k :=
  readOff_of_locate s (locate_tempC100 hk h)

theorem readOff_pressQ8 (hk : k < 8) (h : off.toNat = 0x30 + k) : readOff s off = byteAt s.pressQ8 k :=
  readOff_of_locate s (locate_pressQ8 hk h)

/-- The order of the coefficient registers in the map is that of `coefReg`. -/
theorem ofFn_coefReg (c : Coefs) :
    List.ofFn (coefReg c) = [c.t1, c.t2, c.t3, c.p1, c.p2, c.p3, c.p4, c.p5, c.p6, c.p7, c.p8, c.p9] := rfl

theorem readOff_coef {j : Nat} {c : BitVec 16} (hj : j < 2) (hc : (List.ofFn (coefReg s.coef))[k]? = some c)
    (h : off.toNat = 0x40 + 2 * k + j) : readOff s off = byteAt c j := by
  obtain ⟨hk, rfl⟩ := List.getElem?_eq_some_iff.mp hc
  rw [List.length_ofFn] at hk
  rw [List.getElem_ofFn]
  exact readOff_of_locate s (locate_coef hk hj h)

end Sys2Proof.Machine
end

section
/-! PROOFS. A host word that is no transaction stops the step (30_encoding.md R105). -/

namespace Sys2Proof.Machine

variable {s : State} {rest : List Input} {w : BusWord} {e : DecodeError}

theorem fetch_of_inputs_bus_error (h : s.inputs = .bus w :: rest) (hd : decode (.bus w) = .error e) : fetch s = .rejected e := by
  simp only [fetch, h, hd]

theorem step_of_fetch_rejected (h : fetch s = .rejected e) : step s = .refused (.notATransaction e) := by simp only [step, h]

end Sys2Proof.Machine
end

section
/-! PROOFS. The obligations of 20_memory.md on the host's bus. -/

namespace Sys2Proof.Proofs

open Sys2Proof Sys2Proof.Machine

/-- Settles O14: each clause names the location of its offset, and the reply is the byte there. -/
theorem idleReadReturnsTheRegisterByte : Obligations.IdleReadReturnsTheRegisterByte := by
  intro s off hidle
  refine ⟨_, exec_rd_idle hidle, rfl, ?cmd, ?status, ?err, ?rawT, ?rawP, ?calraw, ?fineT, ?tempC100, ?pressQ8, ?coef, ?reserved⟩
  case cmd => exact fun h => readOff_of_locate s (congrArg locateNat h)
  case status =>
    intro h
    have hreply : readOff s off = statusRead s.status := readOff_of_locate s (congrArg locateNat h)
    simp only [hreply, getLsbD_statusRead]
    exact ⟨fun b hb => by simp [hb], by simp, by simp⟩
  case err =>
    intro h b
    have hreply : readOff s off = errRead s.err := readOff_of_locate s (congrArg locateNat h)
    by_cases hb : b < 4 <;> simp [hreply, getLsbD_errRead, hb]
  case rawT => exact fun k hk h => readOff_of_locate s (locate_rawT hk h)
  case rawP => exact fun k hk h => readOff_of_locate s (locate_rawP hk h)
  case calraw => exact fun i hi h => readOff_of_locate s (locate_calraw hi h)
  case fineT => exact fun k hk h => readOff_fineT s hk h
  case tempC100 => exact fun k hk h => readOff_tempC100 s hk h
  case pressQ8 => exact fun k hk h => readOff_pressQ8 s hk h
  case coef => exact fun k j c hj hc h => readOff_coef s hj (by rwa [ofFn_coefReg]) h
  case reserved => exact fun h => readOff_of_locate s (locate_reserved h)

/-- Settles O16: the write leaves BUSY = 0, replaces the byte of its location, and no other offset has that location. -/
theorem readAfterWriteOfAStoredByte : Obligations.ReadAfterWriteOfAStoredByte := by
  intro s off v hidle hoff
  have hstored : (locate off).isStored = true := isStored_locate hoff
  have hcmd : locate off ≠ .cmd := fun h => by simp [h, Loc.isStored] at hstored
  have hreserved : locate off ≠ .reserved := fun h => by simp [h, Loc.isStored] at hstored
  have hstill : readFlag (writeLoc s v (locate off)).status .busy = false := (readFlag_busy_writeLoc hcmd).trans hidle
  refine ⟨_, exec_wr_idle hidle, ?_, ?_⟩
  · rw [exec_rd_idle hstill, readOff, readLoc_writeLoc_same hstored]
  · intro a hne hstatus
    have hother : locate a ≠ locate off := fun h => hne (locate_injective h.symm hreserved).symm
    rw [exec_rd_idle hstill, readOff, readLoc_writeLoc_of_ne hother (mt locate_eq_status_iff.mp hstatus), ← readOff]

/-- Settles O45: a write is dropped, a read moves the model's own fields, and a word that is neither has no next state. -/
theorem busyHostTrafficLeavesCeAlone : Obligations.BusyHostTrafficLeavesCeAlone := by
  intro s t w rest hbusy hinputs hstep
  rcases decodeBus_cases w with ⟨_, hdecode⟩ | ⟨_, _, hdecode⟩ | ⟨_, _, hdecode⟩
  · rw [step_of_fetch_run (fetch_of_inputs_bus hinputs hdecode), exec_wr_busy (s := { s with inputs := rest }) hbusy] at hstep
    cases hstep
    rfl
  · rw [step_of_fetch_run (fetch_of_inputs_bus hinputs hdecode)] at hstep
    cases hstep
    exact memRead_eq _ _
  · rw [step_of_fetch_rejected (fetch_of_inputs_bus_error hinputs hdecode)] at hstep
    cases hstep

/-- Settles O9: offset 0x00 is CMD. -/
theorem cmdWriteQueuesTheByte : Obligations.CmdWriteQueuesTheByte := by
  intro s v hidle
  exact ⟨_, exec_wr_idle hidle, rfl, statusAfter_writeFlag_busy s.status⟩

/-- Settles O10: the write replaces byte k of RAW_T and clears FINE_VALID with its dependents. -/
theorem rawTWriteReplacesTheByteAndClearsFine : Obligations.RawTWriteReplacesTheByteAndClearsFine := by
  intro s off v k hidle hk hoff
  refine ⟨_, exec_wr_idle hidle, ?_⟩
  rw [locate_rawT hk hoff]
  exact ⟨rfl, fun j hj => byteAt_setByteAt s.rawT k j v (by omega) (by omega), statusAfter_clearFineValid hidle⟩

/-- Settles O11: the write replaces byte k of RAW_P and clears P_VALID with P_SENT. -/
theorem rawPWriteReplacesTheByteAndClearsPress : Obligations.RawPWriteReplacesTheByteAndClearsPress := by
  intro s off v k hidle hk hoff
  refine ⟨_, exec_wr_idle hidle, ?_⟩
  rw [locate_rawP hk hoff]
  exact ⟨rfl, fun j hj => byteAt_setByteAt s.rawP k j v (by omega) (by omega), statusAfter_clearPValid hidle⟩

/-- Settles O12: the write replaces byte i of the staging bytes and sets bit i of their mask. -/
theorem calrawWriteStagesTheByte : Obligations.CalrawWriteStagesTheByte := by
  intro s off v i hidle hi hoff
  refine ⟨_, exec_wr_idle hidle, ?_⟩
  rw [locate_calraw hi hoff]
  refine ⟨rfl, fun j hj => (Vector.getElem_set hi hj).trans ?_, fun j hj => getLsbD_or_one_shiftLeft s.calWmask i hj⟩
  simp only [eq_comm]

/-- Settles O13: while BUSY = 1 every write is dropped, and while BUSY = 0 the location of such an offset takes no write. -/
theorem writeElsewhereHasNoEffect : Obligations.WriteElsewhereHasNoEffect := by
  intro s off v hcmd hrawT hrawP hcalraw
  cases hbusy : readFlag s.status .busy with
  | true => exact exec_wr_busy hbusy
  | false =>
    rw [exec_wr_idle hbusy]
    rcases locate_cases off with ⟨h, _⟩ | ⟨_, hloc⟩ | ⟨_, hloc⟩ | ⟨k, h, _⟩ | ⟨k, h, _⟩ | ⟨i, h, _⟩ | ⟨_, _, hloc⟩ | ⟨_, _, hloc⟩ |
      ⟨_, _, hloc⟩ | ⟨_, _, _, hloc⟩ | ⟨_, hloc⟩
    case inl | inr.inr.inr.inl | inr.inr.inr.inr.inl | inr.inr.inr.inr.inr.inl => omega
    all_goals rw [hloc]; rfl

/-- Settles O15: a read is a draw, of which STATUS keeps bits 5:1. -/
theorem busyAccessesAreDroppedOrDrawn : Obligations.BusyAccessesAreDroppedOrDrawn := by
  intro s off v hbusy
  refine ⟨exec_wr_busy hbusy, _, congrArg Host.Outcome.next (memRead_busy hbusy), rfl, fun hstatus => ?_, fun hother => if_neg hother⟩
  simp only [if_pos hstatus]
  refine ⟨getLsbD_statusDraw _ 0 (by omega), getLsbD_statusDraw _ 6 (by omega), getLsbD_statusDraw _ 7 (by omega), fun b hlo hhi => ?_⟩
  rw [getLsbD_statusDraw _ b (by omega), if_neg (by omega), if_pos hhi]

/-- Settles O17, register by register. -/
theorem resultRegistersAssembleFromTheirBytes : Obligations.ResultRegistersAssembleFromTheirBytes := by
  intro s
  refine ⟨?_, ?_, ?_⟩
  · exact assembleBytes_readOff (base := 0x28#8) s.fineT (by decide) fun k off hk h => readOff_fineT s hk h
  · exact assembleBytes_readOff (base := 0x2C#8) s.tempC100 (by decide) fun k off hk h => readOff_tempC100 s hk h
  · exact assembleBytes_readOff (base := 0x30#8) s.pressQ8 (by decide) fun k off hk h => readOff_pressQ8 s hk h

end Sys2Proof.Proofs
end

section
/-! PROOFS. A word as its fields, highest first: one bit, then `a` bits, then `b` bits. A command byte is TERR, RSV, OP (30_encoding.md R101), a
transaction word W, OFF, DATA (R105). -/

namespace Sys2Proof

variable {a b : Nat}

theorem ofBool_append_fields (x : BitVec (1 + a + b)) :
    BitVec.ofBool (x.getLsbD (a + b)) ++ x.extractLsb' b a ++ x.extractLsb' 0 b = x := by
  refine BitVec.eq_of_getLsbD_eq fun k hk => ?_
  by_cases hlow : k < b
  · simp [BitVec.getLsbD_append, hlow]
  by_cases hmid : k - b < a
  · simp [BitVec.getLsbD_append, hlow, hmid, Nat.add_sub_cancel' (Nat.le_of_not_lt hlow)]
  · obtain rfl : k = a + b := by omega
    simp only [BitVec.getLsbD_append, hlow, hmid]
    simp

theorem middleField_append (t : BitVec 1) (x : BitVec a) (y : BitVec b) : (t ++ x ++ y).extractLsb' b a = x := by
  refine BitVec.eq_of_getLsbD_eq fun k hk => ?_
  simp [BitVec.getLsbD_append, hk]

theorem topBit_append (t : Bool) (x : BitVec a) (y : BitVec b) : (BitVec.ofBool t ++ x ++ y).getLsbD (a + b) = t := by
  simp only [BitVec.getLsbD_append]
  simp

theorem cmd_fields (c : Byte) : BitVec.ofBool (cmdTerr c) ++ cmdRsv c ++ cmdOp c = c := ofBool_append_fields (a := 3) (b := 4) c

theorem bus_fields (w : BusWord) : BitVec.ofBool (w.getLsbD 16) ++ w.extractLsb' 8 8 ++ w.extractLsb' 0 8 = w :=
  ofBool_append_fields (a := 8) (b := 8) w

@[simp] theorem cmdRsv_append (t : BitVec 1) (r : BitVec 3) (o : BitVec 4) : cmdRsv (t ++ r ++ o) = r := middleField_append t r o

@[simp] theorem cmdOp_append (t : BitVec 1) (r : BitVec 3) (o : BitVec 4) : cmdOp (t ++ r ++ o) = o := BitVec.extractLsb'_append_eq_right

theorem cmdRsv_and (c d : Byte) : cmdRsv (c &&& d) = cmdRsv c &&& cmdRsv d := BitVec.extractLsb'_and

theorem cmdOp_and (c d : Byte) : cmdOp (c &&& d) = cmdOp c &&& cmdOp d := BitVec.extractLsb'_and

/-- A mask test that does not look at TERR is one of RSV and one of OP. -/
theorem and_eq_iff_fields (c : Byte) (mr vr : BitVec 3) (mo vo : BitVec 4) :
    c &&& (0#1 ++ mr ++ mo) = 0#1 ++ vr ++ vo ↔ cmdRsv c &&& mr = vr ∧ cmdOp c &&& mo = vo := by
  constructor
  · intro h
    have hrsv := congrArg cmdRsv h
    have hop := congrArg cmdOp h
    rw [cmdRsv_and, cmdRsv_append, cmdRsv_append] at hrsv
    rw [cmdOp_and, cmdOp_append, cmdOp_append] at hop
    exact ⟨hrsv, hop⟩
  · rintro ⟨hrsv, hop⟩
    conv_lhs => rw [← cmd_fields c]
    rw [BitVec.and_append, BitVec.and_append, hrsv, hop, BitVec.and_zero]

/-- Two mask tests that ask different values of a common bit exclude each other. -/
theorem and_ne_of_and_eq {c m v m' v' : Byte} (h : c &&& m = v) (hdisjoint : v &&& m' ≠ v' &&& m) : c &&& m' ≠ v' := by
  rintro rfl
  exact hdisjoint (by rw [← h, BitVec.and_assoc, BitVec.and_assoc, BitVec.and_comm m m'])

end Sys2Proof
end

section
/-! PROOFS. The illegal command bytes (30_encoding.md R107): the rows by the fields of their bytes, and that the rows are exactly the illegal bytes. -/

namespace Sys2Proof

variable {c : Byte} {i : Instr}

/-- The illegal check of 30_encoding.md R103. -/
def IllegalByte (c : Byte) : Prop := cmdRsv c ≠ 0#3 ∨ 6 ≤ (cmdOp c).toNat

theorem decodeCmd_illegal (h : IllegalByte c) : decodeCmd c = illegalRow c := if_pos h

theorem decodeCmd_legal (h : ¬IllegalByte c) : decodeCmd c = legalRow (cmdTerr c) (cmdOp c) := if_neg h

theorem matches_rsv4_iff : c &&& 0x10#8 = 0x10#8 ↔ cmdRsv c &&& 1#3 = 1#3 := by
  simpa using and_eq_iff_fields c 1#3 1#3 0#4 0#4

theorem matches_rsv5_iff : c &&& 0x30#8 = 0x20#8 ↔ cmdRsv c &&& 3#3 = 2#3 := by
  simpa using and_eq_iff_fields c 3#3 2#3 0#4 0#4

theorem matches_rsv6_iff : c &&& 0x70#8 = 0x40#8 ↔ cmdRsv c &&& 7#3 = 4#3 := by
  simpa using and_eq_iff_fields c 7#3 4#3 0#4 0#4

theorem matches_op8_iff : c &&& 0x78#8 = 0x08#8 ↔ cmdRsv c &&& 7#3 = 0#3 ∧ cmdOp c &&& 8#4 = 8#4 :=
  and_eq_iff_fields c 7#3 0#3 8#4 8#4

theorem matches_op6_iff : c &&& 0x7E#8 = 0x06#8 ↔ cmdRsv c &&& 7#3 = 0#3 ∧ cmdOp c &&& 14#4 = 6#4 :=
  and_eq_iff_fields c 7#3 0#3 14#4 6#4

theorem rsv_ne_zero_iff : ∀ r : BitVec 3, r ≠ 0#3 ↔ r &&& 1#3 = 1#3 ∨ r &&& 3#3 = 2#3 ∨ r &&& 7#3 = 4#3 := by decide

theorem six_le_op_iff : ∀ o : BitVec 4, 6 ≤ o.toNat ↔ o &&& 8#4 = 8#4 ∨ o &&& 14#4 = 6#4 := by decide

/-- The five rows are the illegal bytes: three rows by RSV, and two of RSV = 0 by OP. -/
theorem illegalByte_iff : IllegalByte c ↔ c &&& 0x10#8 = 0x10#8 ∨ c &&& 0x30#8 = 0x20#8 ∨ c &&& 0x70#8 = 0x40#8 ∨
    c &&& 0x78#8 = 0x08#8 ∨ c &&& 0x7E#8 = 0x06#8 := by
  have hmask : cmdRsv c &&& 7#3 = cmdRsv c := BitVec.and_allOnes
  rw [IllegalByte, rsv_ne_zero_iff, six_le_op_iff, matches_rsv4_iff, matches_rsv5_iff, matches_rsv6_iff, matches_op8_iff, matches_op6_iff,
    hmask]
  have hrsv := rsv_ne_zero_iff (cmdRsv c)
  rw [hmask] at hrsv
  tauto

/-- What the decoder makes of an illegal byte is the row it matches, with the byte. -/
theorem illegalRow_sound (h : IllegalByte c) : (illegalRow c).wellFormed = true ∧ encode (illegalRow c) = .cmd c := by
  have hrows := illegalByte_iff.mp h
  unfold illegalRow
  split_ifs with hrsv4 hrsv5 hrsv6 hop8
  · exact ⟨beq_iff_eq.mpr hrsv4, rfl⟩
  · exact ⟨beq_iff_eq.mpr hrsv5, rfl⟩
  · exact ⟨beq_iff_eq.mpr hrsv6, rfl⟩
  · exact ⟨beq_iff_eq.mpr hop8, rfl⟩
  · have hop6 : c &&& 0x7E#8 = 0x06#8 := by tauto
    exact ⟨beq_iff_eq.mpr hop6, rfl⟩

/-! A byte of a row matches no row tested before it. -/

theorem decodeCmd_rsv4 (h : c &&& 0x10#8 = 0x10#8) : decodeCmd c = .illegalRsv4 c := by
  rw [decodeCmd_illegal (illegalByte_iff.mpr (by tauto))]
  simp [illegalRow, h]

theorem decodeCmd_rsv5 (h : c &&& 0x30#8 = 0x20#8) : decodeCmd c = .illegalRsv5 c := by
  rw [decodeCmd_illegal (illegalByte_iff.mpr (by tauto))]
  simp [illegalRow, h, and_ne_of_and_eq h]

theorem decodeCmd_rsv6 (h : c &&& 0x70#8 = 0x40#8) : decodeCmd c = .illegalRsv6 c := by
  rw [decodeCmd_illegal (illegalByte_iff.mpr (by tauto))]
  simp [illegalRow, h, and_ne_of_and_eq h]

theorem decodeCmd_op8 (h : c &&& 0x78#8 = 0x08#8) : decodeCmd c = .illegalOp8 c := by
  rw [decodeCmd_illegal (illegalByte_iff.mpr (by tauto))]
  simp [illegalRow, h, and_ne_of_and_eq h]

theorem decodeCmd_op6 (h : c &&& 0x7E#8 = 0x06#8) : decodeCmd c = .illegalOp6 c := by
  rw [decodeCmd_illegal (illegalByte_iff.mpr (by tauto))]
  simp [illegalRow, and_ne_of_and_eq h]

end Sys2Proof
end

section
/-! PROOFS. The decoder and the encoder undo each other (30_encoding.md R101 to R107). -/

namespace Sys2Proof

/-- The words of the legal operations, by their fields (30_encoding.md R101, R102). -/
theorem encode_legalRow : ∀ (terr : Bool) (op : BitVec 4), op.toNat < 6 → encode (legalRow terr op) = .cmd (BitVec.ofBool terr ++ 0#3 ++ op) := by
  decide

theorem wellFormed_legalRow (terr : Bool) (op : BitVec 4) : (legalRow terr op).wellFormed = true := by
  unfold legalRow
  split_ifs <;> rfl

theorem decodeCmd_sound (c : Byte) : (decodeCmd c).wellFormed = true ∧ encode (decodeCmd c) = .cmd c := by
  by_cases h : IllegalByte c
  · rw [decodeCmd_illegal h]
    exact illegalRow_sound h
  · obtain ⟨hrsv, hop⟩ : cmdRsv c = 0#3 ∧ (cmdOp c).toNat < 6 := by simpa [IllegalByte] using h
    rw [decodeCmd_legal h, encode_legalRow _ _ hop, ← hrsv, cmd_fields]
    exact ⟨wellFormed_legalRow _ _, rfl⟩

theorem decodeBus_wr (off data : Byte) : decodeBus (1#1 ++ off ++ data) = .ok (.wr off data) := by
  have hw : (1#1 ++ off ++ data : BusWord).getLsbD 16 = true := topBit_append true off data
  have hoff : (1#1 ++ off ++ data : BusWord).extractLsb' 8 8 = off := middleField_append 1#1 off data
  have hdata : (1#1 ++ off ++ data : BusWord).extractLsb' 0 8 = data := BitVec.extractLsb'_append_eq_right
  rw [decodeBus, if_pos hw, hoff, hdata]

theorem decodeBus_rd (off : Byte) : decodeBus (0#1 ++ off ++ 0x00#8) = .ok (.rd off) := by
  have hw : (0#1 ++ off ++ 0x00#8 : BusWord).getLsbD 16 = false := topBit_append false off 0x00#8
  have hoff : (0#1 ++ off ++ 0x00#8 : BusWord).extractLsb' 8 8 = off := middleField_append 0#1 off 0x00#8
  have hdata : (0#1 ++ off ++ 0x00#8 : BusWord).extractLsb' 0 8 = 0x00#8 := BitVec.extractLsb'_append_eq_right
  rw [decodeBus, if_neg (Bool.eq_false_iff.mp hw), if_pos hdata, hoff]

theorem decode_encode (i : Instr) (h : i.wellFormed = true) : decode (encode i) = .ok i := by
  cases i with
  | illegalOp6 c => exact congrArg Except.ok (decodeCmd_op6 (eq_of_beq h))
  | illegalOp8 c => exact congrArg Except.ok (decodeCmd_op8 (eq_of_beq h))
  | illegalRsv4 c => exact congrArg Except.ok (decodeCmd_rsv4 (eq_of_beq h))
  | illegalRsv5 c => exact congrArg Except.ok (decodeCmd_rsv5 (eq_of_beq h))
  | illegalRsv6 c => exact congrArg Except.ok (decodeCmd_rsv6 (eq_of_beq h))
  | wr off data => exact decodeBus_wr off data
  | rd off => exact decodeBus_rd off
  | _ => rfl

/-- The data byte of a read word is 0x00, so its fields give the whole word, as they do for a write. -/
theorem decodeBus_sound {w : BusWord} {i : Instr} (h : decode (.bus w) = .ok i) : i.wellFormed = true ∧ encode i = .bus w := by
  have hfields := bus_fields w
  rcases Machine.decodeBus_cases w with ⟨hw, hdecode⟩ | ⟨hw, hdata, hdecode⟩ | ⟨_, _, hdecode⟩ <;> cases hdecode.symm.trans h
  · rw [hw] at hfields
    exact ⟨rfl, congrArg Code.bus hfields⟩
  · rw [hw, hdata] at hfields
    exact ⟨rfl, congrArg Code.bus hfields⟩

end Sys2Proof
end

section
/-! PROOFS. The obligations of 30_encoding.md on the decoder. -/

namespace Sys2Proof.Proofs

open Sys2Proof

/-- Settles O1: an illegal byte matches its own row and no row tested before it, a legal byte is evaluated, and a transaction word gives its fields back. -/
theorem decodingAnEncodedInstructionGivesItBack : Obligations.DecodingAnEncodedInstructionGivesItBack := decode_encode

/-- Settles O2, format by format: the fields read determine the word. -/
theorem encodingADecodedWordGivesItBack : Obligations.EncodingADecodedWordGivesItBack := by
  intro w i hdecode
  cases w with
  | cmd c =>
    cases hdecode
    exact decodeCmd_sound c
  | bus w => exact decodeBus_sound hdecode

/-- Settles O3: each word is the encoding of the well-formed instruction named, so it decodes to it. -/
theorem wordsOfTheSpecDecodeAsWritten : Obligations.WordsOfTheSpecDecodeAsWritten :=
  ⟨decode_encode .loadcal rfl, decode_encode .finet rfl, decode_encode .press rfl, decode_encode .comp rfl, decode_encode .tempTerr rfl,
    decode_encode (.illegalOp6 0x86#8) rfl, decode_encode (.illegalRsv4 0x92#8) rfl, decode_encode (.wr 0x10#8 0x70#8) rfl,
    decode_encode (.rd 0x02#8) rfl⟩

end Sys2Proof.Proofs
end

section
/-! PROOFS. Which steps stop, and why (60_exceptions.md R190; 30_encoding.md R105). -/

namespace Sys2Proof.Machine

variable {s t : State} {e : DecodeError} {r : Refusal}

theorem engineTurn_ne_rejected : engineTurn s ≠ .rejected e := by
  rcases engineTurn_cases s with ⟨_, hturn⟩ | ⟨_, hturn⟩ <;> simp [hturn]

theorem fetch_rejected_iff : fetch s = .rejected e ↔ ∃ w rest, s.inputs = .bus w :: rest ∧ decode (.bus w) = .error e := by
  constructor
  · intro h
    rcases fetch_cases s with ⟨_, hf⟩ | ⟨_, _, hf⟩ | ⟨_, _, hf⟩ | ⟨_, _, _, _, _, hf⟩ | ⟨w, rest, e', hinputs, hdecode, hf⟩
    · exact absurd (hf.symm.trans h) engineTurn_ne_rejected
    · exact absurd (hf.symm.trans h) engineTurn_ne_rejected
    · cases hf.symm.trans h
    · cases hf.symm.trans h
    · cases hf.symm.trans h
      exact ⟨w, rest, hinputs, hdecode⟩
  · rintro ⟨w, rest, hinputs, hdecode⟩
    exact fetch_of_inputs_bus_error hinputs hdecode

theorem step_refused_iff : step s = .refused r ↔ ∃ e, fetch s = .rejected e ∧ r = .notATransaction e := by
  cases hf : fetch s with
  | run i u =>
    obtain ⟨t, ht⟩ := exec_next i u
    simp [step_of_fetch_run hf, ht]
  | quiet t => simp [step_of_fetch_quiet hf]
  | rejected e => simp [step_of_fetch_rejected hf, eq_comm]

theorem decode_bus_error_iff {w : BusWord} : (∃ e, decode (.bus w) = .error e) ↔ w.getLsbD 16 = false ∧ w.extractLsb' 0 8 ≠ 0x00#8 := by
  rcases decodeBus_cases w with ⟨hw, hdecode⟩ | ⟨hw, hdata, hdecode⟩ | ⟨hw, hdata, hdecode⟩ <;> rw [hdecode]
  · rw [hw]; simp
  · rw [hdata]; simp
  · exact ⟨fun _ => ⟨hw, hdata⟩, fun _ => ⟨_, rfl⟩⟩

end Sys2Proof.Machine
end

section
/-! PROOFS. What every command does and leaves (30_encoding.md R103, R104): its last effect is its completion, and it reaches no register that only
the host writes. -/

namespace Sys2Proof.Machine

variable {i : Instr} {s t : State}

theorem Stage.finish_eq_complete (r : Stage) : ∃ e, r.finish = complete e r.state := by
  cases r with
  | done s => exact ⟨.none, rfl⟩
  | raised e s => exact ⟨e, rfl⟩

theorem exec_of_isIllegal (h : isIllegal i = true) (s : State) : exec i s = .next (complete .illegalCommand s) := by
  cases i with
  | illegalOp6 | illegalOp8 | illegalRsv4 | illegalRsv5 | illegalRsv6 => rfl
  | _ => cases h

theorem exec_eq_complete (h : isCommand i = true) (s : State) : ∃ e u, exec i s = .next (complete e u) := by
  have hstage (r : Stage) : ∃ e u, Host.Outcome.next (φ := Fault) (ρ := Refusal) r.finish = .next (complete e u) := by
    obtain ⟨e, he⟩ := r.finish_eq_complete
    exact ⟨e, r.state, congrArg _ he⟩
  cases i with
  | loadcal => exact hstage (loadcalStage s)
  | finet => exact hstage (finetStage s)
  | temp => exact hstage (tempStage s)
  | press => exact hstage (pressStage s)
  | comp => exact hstage (compStage s)
  | wr | rd => cases h
  | _ => exact ⟨_, _, rfl⟩

/-- What only the host, the reset and the model's own bookkeeping write: RAW_T, RAW_P, CALRAW and the model's own fields. -/
def State.hostSide (s : State) : BitVec 24 × BitVec 24 × Vector Byte 24 × Byte × Nat × List Input :=
  (s.rawT, s.rawP, s.calraw, s.reply, s.draws, s.inputs)

theorem Update.hostSide_eq (hupdate : Update i s t) (hi : isCommand i = true) : t.hostSide = s.hostSide := by
  cases hupdate with
  | write | read => cases hi
  | _ => rfl

theorem getLsbD_writeFlag_reserved {k : Nat} (hk : 6 ≤ k) (st : Byte) (f : Flag) (b : Bool) : (writeFlag st f b).getLsbD k = st.getLsbD k := by
  rw [getLsbD_writeFlag, if_neg]
  cases f <;> simp only [flagBit] <;> omega

/-- The reserved bits of STATUS are no flag's, so no command touches them (10_state.md R33). -/
theorem Update.reserved_eq {k : Nat} (hk : 6 ≤ k) (hupdate : Update i s t) (hi : isCommand i = true) :
    t.status.getLsbD k = s.status.getLsbD k := by
  cases hupdate with
  | write | read => cases hi
  | _ => simp [clearCalValid, clearFineValid, clearTValid, clearPValid, getLsbD_writeFlag_reserved hk]

end Sys2Proof.Machine
end

section
/-! PROOFS. The only error of the checked functions is OVERFLOW (00_scope.md R12). -/

namespace Sys2Proof.Machine

/-- A checked computation that raises no error but OVERFLOW. -/
def OnlyOverflow {α : Type} (x : Except ErrCode α) : Prop := ∀ e, x = .error e → e = .overflow

theorem onlyOverflow_chk (v : Int) : OnlyOverflow (chk v) := fun _ => chk_error

theorem onlyOverflow_pure {α : Type} (a : α) : OnlyOverflow (pure a) := nofun

theorem onlyOverflow_bind {α β : Type} {x : Except ErrCode α} {f : α → Except ErrCode β} :
    OnlyOverflow (x >>= f) ↔ OnlyOverflow x ∧ ∀ a, x = .ok a → OnlyOverflow (f a) := by
  simp only [OnlyOverflow, bind_eq_error]
  constructor
  · exact fun h => ⟨fun e hx => h e (.inl hx), fun a hx e hf => h e (.inr ⟨a, hx, hf⟩)⟩
  · rintro ⟨hx, hf⟩ e (hxe | ⟨a, hxa, hfe⟩)
    · exact hx e hxe
    · exact hf a hxa e hfe

theorem onlyOverflow_fineOf (rawT : BitVec 24) (c : Coefs) : OnlyOverflow (fineOf rawT c) := by
  simp only [fineOf, fineTemp, onlyOverflow_bind, onlyOverflow_chk, implies_true, and_self]

theorem onlyOverflow_pressPolynomials (f p2 p3 p4 p5 p6 : Int) : OnlyOverflow (pressPolynomials f p2 p3 p4 p5 p6) := by
  simp only [pressPolynomials, onlyOverflow_bind, onlyOverflow_chk, onlyOverflow_pure, implies_true, and_self]

theorem onlyOverflow_pressDenominator (off p1 : Int) : OnlyOverflow (pressDenominator off p1) := by
  simp only [pressDenominator, onlyOverflow_bind, onlyOverflow_chk, onlyOverflow_pure, implies_true, and_self]

theorem onlyOverflow_pressQuotient (adcP v2c den : Int) : OnlyOverflow (pressQuotient adcP v2c den) := by
  simp only [pressQuotient, onlyOverflow_bind, onlyOverflow_chk, onlyOverflow_pure, implies_true, and_self]

theorem onlyOverflow_pressRefine (pb p7 p8 p9 : Int) : OnlyOverflow (pressRefine pb p7 p8 p9) := by
  simp only [pressRefine, onlyOverflow_bind, onlyOverflow_chk, implies_true, and_self]

theorem onlyOverflow_pressureOf (rawP : BitVec 24) (fineT : BitVec 32) (c : Coefs) : OnlyOverflow (pressureOf rawP fineT c) := by
  simp only [pressureOf, pressure, onlyOverflow_bind, onlyOverflow_pressPolynomials, onlyOverflow_pressDenominator, true_and]
  intro _ _ den _
  split
  · exact onlyOverflow_pure _
  · simp only [onlyOverflow_bind, onlyOverflow_pressQuotient, onlyOverflow_pressRefine, onlyOverflow_pure, implies_true, and_self]

end Sys2Proof.Machine
end

section
/-! PROOFS. The stages FINET and PRESS by their preconditions, and that their functions read no more than their operands (41_temperature.md R130,
42_pressure.md R140). -/

namespace Sys2Proof.Machine

variable {s u : State}

theorem finetStage_uncalibrated (h : readFlag s.status .calValid = false) : finetStage s = .raised .notCalibrated s :=
  if_neg (Bool.eq_false_iff.mp h)

theorem finetStage_done {f : Int} (h : readFlag s.status .calValid = true) (hf : fineOf s.rawT s.coef = .ok f) :
    finetStage s = .done { s with fineT := BitVec.ofInt 32 f, status := writeFlag (clearFineValid s.status) .fineValid true } := by
  simp only [finetStage, h, hf, if_true]

theorem finetStage_raised {e : ErrCode} (h : readFlag s.status .calValid = true) (hf : fineOf s.rawT s.coef = .error e) :
    finetStage s = .raised e { s with status := clearFineValid s.status } := by
  simp only [finetStage, h, hf, if_true]

theorem pressStage_noFineTemp (h : readFlag s.status .fineValid = false) : pressStage s = .raised .noFineTemp s :=
  if_neg (Bool.eq_false_iff.mp h)

theorem pressStage_sentinel (h : readFlag s.status .fineValid = true) (hp : pressureOf s.rawP s.fineT s.coef = .ok .sentinel) :
    pressStage s = .done { s with pressQ8 := 0#64, status := writeFlag (writeFlag s.status .pValid true) .pSent true } := by
  simp only [pressStage, h, hp, if_true]

theorem pressStage_value {r : Int} (h : readFlag s.status .fineValid = true) (hp : pressureOf s.rawP s.fineT s.coef = .ok (.value r)) :
    pressStage s = .done { s with pressQ8 := BitVec.ofInt 64 r, status := writeFlag (writeFlag s.status .pValid true) .pSent false } := by
  simp only [pressStage, h, hp, if_true]

theorem pressStage_raised {e : ErrCode} (h : readFlag s.status .fineValid = true) (hp : pressureOf s.rawP s.fineT s.coef = .error e) :
    pressStage s = .raised e { s with status := clearPValid s.status } := by
  simp only [pressStage, h, hp, if_true]

theorem fineOf_congr {a b : BitVec 24} {c d : Coefs} (hadc : a.extractLsb' 4 20 = b.extractLsb' 4 20) (h1 : c.t1 = d.t1) (h2 : c.t2 = d.t2)
    (h3 : c.t3 = d.t3) : fineOf a c = fineOf b d := by
  simp only [fineOf, adcCode, hadc, h1, h2, h3]

theorem pressureOf_congr {a b : BitVec 24} {f : BitVec 32} {c d : Coefs} (hadc : a.extractLsb' 4 20 = b.extractLsb' 4 20)
    (hcoef : { c with t1 := 0, t2 := 0, t3 := 0 } = ({ d with t1 := 0, t2 := 0, t3 := 0 } : Coefs)) : pressureOf a f c = pressureOf b f d := by
  obtain ⟨-, -, -, h1, h2, h3, h4, h5, h6, h7, h8, h9⟩ := Coefs.mk.inj hcoef
  simp only [pressureOf, adcCode, hadc, h1, h2, h3, h4, h5, h6, h7, h8, h9]

end Sys2Proof.Machine
end

section
/-! PROOFS. The host's turn (30_encoding.md R109): the word of a statement is its transaction, and the turn is one step of CE. -/

namespace Sys2Proof.Machine

variable {r : HostRun} {st : HostStmt} {w : BusWord} {i : Instr} {t : State}

/-- A read word is `off*256` and a write word `0x10000 + off*256 + data`: the fields of R105 at their places. -/
theorem ofNat_fields (b : Bool) (off data : Byte) :
    BitVec.ofNat 17 (b.toNat * 0x10000 + off.toNat * 256 + data.toNat) = (BitVec.ofBool b ++ off ++ data : BusWord) := by
  apply BitVec.eq_of_toNat_eq
  rw [BitVec.toNat_append, BitVec.toNat_append, ← Nat.shiftLeft_add_eq_or_of_lt off.isLt, ← Nat.shiftLeft_add_eq_or_of_lt data.isLt,
    BitVec.toNat_ofBool, BitVec.toNat_ofNat, Nat.shiftLeft_eq, Nat.shiftLeft_eq]
  cases b <;> simp only [Bool.toNat_true, Bool.toNat_false] <;> omega

theorem decode_wrWord (off data : Byte) : decode (.bus (BitVec.ofNat 17 (0x10000 + off.toNat * 256 + data.toNat))) = .ok (.wr off data) := by
  have hword : BitVec.ofNat 17 (0x10000 + off.toNat * 256 + data.toNat) = (1#1 ++ off ++ data : BusWord) := ofNat_fields true off data
  rw [hword]
  exact decode_encode (.wr off data) rfl

theorem decode_rdWord (off : Byte) : decode (.bus (BitVec.ofNat 17 (off.toNat * 256))) = .ok (.rd off) := by
  have hword : BitVec.ofNat 17 (off.toNat * 256) = (0#1 ++ off ++ 0x00#8 : BusWord) := by
    simpa using ofNat_fields false off 0x00#8
  rw [hword]
  exact decode_encode (.rd off) rfl

theorem hostTurn_transaction (hstmt : r.prog[r.pos]? = some st) (hword : stmtWord st = some w) (hdecode : decode (.bus w) = .ok i)
    (hexec : exec i r.ce = .next t) : hostTurn r = .next { r with ce := t, pos := stmtNext r.pos t.reply st } := by
  have hstep : step { r.ce with inputs := .bus w :: r.ce.inputs } = .next t :=
    (step_of_fetch_run (fetch_of_inputs_bus rfl hdecode)).trans hexec
  simp only [hostTurn, hstmt, hword, hstep]

theorem hostTurn_halt (hstmt : r.prog[r.pos]? = some .halt) : hostTurn r = .next r := by
  simp only [hostTurn, hstmt, stmtWord]

end Sys2Proof.Machine
end

section
/-! PROOFS. The obligations of 30_encoding.md on commands, their operands and the host's statements. -/

namespace Sys2Proof.Proofs

open Sys2Proof Sys2Proof.Machine

/-- Settles O7: a fault has no constructor, and a step is refused where its fetch rejects the oldest word. -/
theorem stepStopsOnlyOnAWordThatIsNoTransaction : Obligations.StepStopsOnlyOnAWordThatIsNoTransaction := by
  intro s
  refine ⟨nofun, ?_, ?_⟩
  · rintro ⟨r, hrefused⟩
    obtain ⟨e, hrejected, -⟩ := step_refused_iff.mp hrefused
    obtain ⟨w, rest, hinputs, hdecode⟩ := fetch_rejected_iff.mp hrejected
    exact ⟨w, rest, hinputs, decode_bus_error_iff.mp ⟨e, hdecode⟩⟩
  · rintro ⟨w, rest, hinputs, hread⟩
    obtain ⟨e, hdecode⟩ := decode_bus_error_iff.mpr hread
    exact ⟨_, step_of_fetch_rejected (fetch_of_inputs_bus_error hinputs hdecode)⟩

/-- Settles O43: the completion gives BUSY, PENDING and ERR, and the rest holds of every update of a command. -/
theorem everyCommandCompletesAndLeavesTheInputs : Obligations.EveryCommandCompletesAndLeavesTheInputs := by
  intro i s hi
  obtain ⟨e, u, hexec⟩ := exec_eq_complete hi s
  have hreserved {k : Nat} (hk : 6 ≤ k) : (complete e u).status.getLsbD k = s.status.getLsbD k :=
    exec_leaves (r := fun v => v.status.getLsbD k) (fun hupdate => hupdate.reserved_eq hk hi) hexec
  have hhost : (complete e u).hostSide = s.hostSide := exec_leaves (fun hupdate => hupdate.hostSide_eq hi) hexec
  obtain ⟨hrawT, hrawP, hcalraw, hreply, hdraws, hinputs⟩ : _ ∧ _ ∧ _ ∧ _ ∧ _ ∧ _ := by
    simpa only [State.hostSide, Prod.mk.injEq] using hhost
  exact ⟨_, hexec, by simp [flagBit], rfl, errByte_le e, hreserved (by omega), hreserved (by omega), hrawT, hrawP, hcalraw, hreply, hdraws,
    hinputs⟩

/-- Settles O48: the two states meet the same precondition and give the function of R131 the same operands. -/
theorem finetDependsOnlyOnItsOperands : Obligations.FinetDependsOnlyOnItsOperands := by
  intro s u hadc h1 h2 h3 hcal
  have hfine : fineOf s.rawT s.coef = fineOf u.rawT u.coef := fineOf_congr hadc h1 h2 h3
  refine ⟨_, _, rfl, rfl, ?_⟩
  rcases finetStage_cases s with ⟨hs, hstage⟩ | ⟨f, hs, hf, hstage⟩ | ⟨e, hs, hf, hstage⟩ <;> rw [hstage]
  · rw [finetStage_uncalibrated (hcal ▸ hs)]
    simp
  · rw [finetStage_done (hcal ▸ hs) (hfine ▸ hf)]
    simp
  · rw [finetStage_raised (hcal ▸ hs) (hfine ▸ hf), onlyOverflow_fineOf _ _ e hf]
    simp

/-- Settles O49: the two states meet the same precondition and give the function of R141 the same operands. -/
theorem pressDependsOnlyOnItsOperands : Obligations.PressDependsOnlyOnItsOperands := by
  intro s u hadc hfineT hcoef hfine
  have hpress : pressureOf s.rawP s.fineT s.coef = pressureOf u.rawP u.fineT u.coef := hfineT ▸ pressureOf_congr hadc hcoef
  refine ⟨_, _, rfl, rfl, ?_⟩
  rcases pressStage_cases s with ⟨hs, hstage⟩ | ⟨hs, hp, hstage⟩ | ⟨r, hs, hp, hstage⟩ | ⟨e, hs, hp, hstage⟩ <;> rw [hstage]
  · rw [pressStage_noFineTemp (hfine ▸ hs)]
    simp
  · rw [pressStage_sentinel (hfine ▸ hs) (hpress ▸ hp)]
    simp [flagBit]
  · rw [pressStage_value (hfine ▸ hs) (hpress ▸ hp)]
    simp [flagBit]
  · rw [pressStage_raised (hfine ▸ hs) (hpress ▸ hp), onlyOverflow_pressureOf _ _ _ e hp]
    simp

/-- Settles O53: each statement's word decodes to its transaction, and `stmtNext` is where the host goes. -/
theorem hostStatementsPerformTheirTransaction : Obligations.HostStatementsPerformTheirTransaction := by
  intro r off v b l t u hwr hrd
  refine ⟨?_, ?_, ?_, ?_, ?_⟩ <;> intro hstmt
  · exact hostTurn_transaction hstmt rfl (decode_wrWord off v) hwr
  · exact hostTurn_transaction hstmt rfl (decode_rdWord off) hrd
  · exact hostTurn_transaction hstmt rfl (decode_rdWord off) hrd
  · rw [hostTurn_transaction hstmt rfl (decode_rdWord off) hrd, stmtNext, ite_not]
  · exact hostTurn_halt hstmt

/-- Settles O20: each row's meaning is the completion with ILLEGAL_COMMAND. -/
theorem everyIllegalRowChangesOnlyErr : Obligations.EveryIllegalRowChangesOnlyErr := by
  intro i s hi
  exact ⟨_, exec_of_isIllegal hi s, rfl, statusIdle_writeFlag_busy s.status⟩

end Sys2Proof.Proofs
end

section
/-! PROOFS. LOADCAL by the validity of the staged set, and the mask it leaves (40_calibration.md R120 to R124). -/

namespace Sys2Proof.Machine

variable {s t : State}

/-- R122 in the staging bytes: `pair(0)` is T1 and `pair(3)` is P1 (R121). -/
theorem calibrationValid_decodeCoefs_iff (mask : BitVec 24) (raw : Vector Byte 24) :
    calibrationValid mask (decodeCoefs raw) = true ↔ mask = 0xFFFFFF#24 ∧ raw[1] ++ raw[0] ≠ 0x0000#16 ∧ raw[7] ++ raw[6] ≠ 0x0000#16 :=
  calibrationValid_iff mask (decodeCoefs raw)

theorem exec_loadcal (s : State) : exec .loadcal s = .next (loadcalStage s).finish := rfl

theorem exec_loadcal_of_valid (h : calibrationValid s.calWmask (decodeCoefs s.calraw) = true) :
    exec .loadcal s = .next (complete .none
      { s with coef := decodeCoefs s.calraw, calWmask := 0#24, status := writeFlag (clearCalValid s.status) .calValid true }) := by
  rw [exec_loadcal, loadcalStage, if_pos h, Stage.finish_done]

theorem exec_loadcal_of_invalid (h : ¬calibrationValid s.calWmask (decodeCoefs s.calraw) = true) :
    exec .loadcal s = .next (complete .invalidCalibration (dropCalibration s)) := by
  rw [exec_loadcal, loadcalStage, if_neg h, Stage.finish_raised]

theorem calWmask_of_exec_loadcal (h : exec .loadcal s = .next t) : t.calWmask = 0#24 := by
  by_cases hvalid : calibrationValid s.calWmask (decodeCoefs s.calraw) = true
  · cases (exec_loadcal_of_valid hvalid).symm.trans h
    rfl
  · cases (exec_loadcal_of_invalid hvalid).symm.trans h
    rfl

theorem statusAfter_setCalValid (st : Byte) :
    StatusAfter st (writeFlag (writeFlag (clearCalValid st) .calValid true) .busy false) false true false false false false := by
  constructor <;> simp [flagBit]

theorem statusAfter_clearCalValid (st : Byte) :
    StatusAfter st (writeFlag (clearCalValid st) .busy false) false false false false false false := by
  constructor <;> simp [flagBit]

end Sys2Proof.Machine
end

section
/-! PROOFS. The obligations of 40_calibration.md on LOADCAL. -/

namespace Sys2Proof.Proofs

open Sys2Proof Sys2Proof.Machine

/-- Settles O24: the first LOADCAL left the mask 0, so the second finds an incomplete set. -/
theorem secondLoadcalWithoutStagingFails : Obligations.SecondLoadcalWithoutStagingFails := by
  intro s t hfirst
  have hinvalid : ¬calibrationValid t.calWmask (decodeCoefs t.calraw) = true := fun hvalid =>
    absurd ((calWmask_of_exec_loadcal hfirst).symm.trans ((calibrationValid_iff _ _).mp hvalid).1) (by decide)
  exact ⟨_, exec_loadcal_of_invalid hinvalid, rfl, rfl, (statusAfter_clearCalValid t.status).cal⟩

/-- Settles O22: the staged set is valid, and each coefficient register is its pair of staging bytes by `decodeCoefs`. -/
theorem loadcalLoadsAValidSet : Obligations.LoadcalLoadsAValidSet := by
  intro s hmask ht1 hp1
  have hvalid := (calibrationValid_decodeCoefs_iff s.calWmask s.calraw).mpr ⟨hmask, ht1, hp1⟩
  exact ⟨_, exec_loadcal_of_valid hvalid, rfl, statusAfter_setCalValid s.status, rfl, rfl, rfl, rfl, rfl, rfl, rfl, rfl, rfl, rfl, rfl, rfl⟩

/-- Settles O23: each of the three reasons makes the staged set invalid, and the calibration is dropped. -/
theorem loadcalRejectsAnInvalidSet : Obligations.LoadcalRejectsAnInvalidSet := by
  intro s hreason
  have hinvalid : ¬calibrationValid s.calWmask (decodeCoefs s.calraw) = true := by
    rw [calibrationValid_decodeCoefs_iff]
    rintro ⟨hmask, ht1, hp1⟩
    rcases hreason with h | h | h
    · exact h hmask
    · exact ht1 h
    · exact hp1 h
  exact ⟨_, exec_loadcal_of_invalid hinvalid, rfl, statusAfter_clearCalValid s.status⟩

end Sys2Proof.Proofs
end

section
/-! PROOFS. A chain of checks fails exactly when one of the values it checks leaves the accumulator (00_scope.md R12). -/

namespace Sys2Proof.Machine

theorem chk_bind {α : Type} (v : Int) (f : Int → Except ErrCode α) :
    (chk v >>= f) = if outOfAcc v = true then .error .overflow else f v := by
  rw [chk_eq]
  split <;> rfl

/-- The one test of a list of values is the chain of their tests. -/
theorem ite_any_outOfAcc_cons {α : Type} (v : Int) (vs : List Int) (x y : α) :
    (if (v :: vs).any outOfAcc = true then x else y) = if outOfAcc v = true then x else if vs.any outOfAcc = true then x else y := by
  simp only [List.any_cons, Bool.or_eq_true, ite_or]

theorem ite_any_outOfAcc_nil {α : Type} (x y : α) : (if ([] : List Int).any outOfAcc = true then x else y) = y := rfl

end Sys2Proof.Machine
end

section
/-! PROOFS. The obligations of 41_temperature.md on its two functions as formulas. -/

namespace Sys2Proof.Proofs

open Sys2Proof.Machine

/-- Settles O26: the binds of the function are the chain of tests of the list, in its order. -/
theorem fineTemperatureIsTheCheckedFormula : Obligations.FineTemperatureIsTheCheckedFormula := by
  intro adcT t1 t2 t3
  simp only [fineTemp, chk_bind, ite_any_outOfAcc_cons, ite_any_outOfAcc_nil, shl, asr_eq_ediv, Nat.reducePow, Nat.cast_ofNat]
  simp only [chk_eq]

/-- Settles O30: as O26. -/
theorem temperatureIsTheCheckedFormula : Obligations.TemperatureIsTheCheckedFormula := by
  intro f
  simp only [tempOf, chk_bind, ite_any_outOfAcc_cons, ite_any_outOfAcc_nil, asr_eq_ediv, Nat.reducePow, Nat.cast_ofNat, pure, Except.pure]

end Sys2Proof.Proofs
end

section
/-! PROOFS. Over the operands the registers can hold, no check of FineTemp or TempC100 fails (41_temperature.md R133, R136). -/

namespace Sys2Proof.Machine

theorem natAbs_mul_le {x y : Int} {m n : Nat} (hx : x.natAbs ≤ m) (hy : y.natAbs ≤ n) : (x * y).natAbs ≤ m * n :=
  Int.natAbs_mul x y ▸ Nat.mul_le_mul hx hy

/-- The widths of R133, each rounded up to a power of two. -/
theorem fineTemp_defined {adcT t1 t2 t3 : Int} (hA : 0 ≤ adcT ∧ adcT ≤ 1048575) (h1 : 0 ≤ t1 ∧ t1 ≤ 65535) (h2 : -32768 ≤ t2 ∧ t2 ≤ 32767)
    (h3 : -32768 ≤ t3 ∧ t3 ≤ 32767) : ∃ f, fineTemp adcT t1 t2 t3 = .ok f := by
  have ha : (adcT / 8 - t1 * 2).natAbs ≤ 2 ^ 17 := by omega
  have hm1 := natAbs_mul_le ha (show t2.natAbs ≤ 2 ^ 15 by omega)
  have hd : (adcT / 16 - t1).natAbs ≤ 2 ^ 16 := by omega
  have hsq := natAbs_mul_le hd hd
  have hsq12 : ((adcT / 16 - t1) * (adcT / 16 - t1) / 4096).natAbs ≤ 2 ^ 20 := by omega
  have hm2 := natAbs_mul_le hsq12 (show t3.natAbs ≤ 2 ^ 15 by omega)
  refine ⟨_, (Proofs.fineTemperatureIsTheCheckedFormula adcT t1 t2 t3).trans (if_neg ?_)⟩
  simp only [List.any_cons, List.any_nil, Bool.or_false, Bool.or_eq_true, outOfAcc, decide_eq_true_eq]
  omega

theorem fineOf_defined (rawT : BitVec 24) (c : Coefs) : ∃ f, fineOf rawT c = .ok f :=
  fineTemp_defined (by unfold adcCode zext; omega) (by unfold zext; omega) (sext_range_16 c.t2) (sext_range_16 c.t3)

/-- FINE_T holds the fine temperature it was given. -/
theorem toInt_ofInt_of_fineOf {rawT : BitVec 24} {c : Coefs} {f : Int} (h : fineOf rawT c = .ok f) : (BitVec.ofInt 32 f).toInt = f := by
  have hrange := fineOf_range h
  exact toInt_ofInt_32 (by omega)

/-- No check of TempC100 fails for any FINE_T of 32 bits. -/
theorem tempOf_sext (v : BitVec 32) : tempOf (sext v) = .ok ((sext v * 5 + 128) / 256) := by
  have hv := sext_range_32 v
  refine (Proofs.temperatureIsTheCheckedFormula (sext v)).trans (if_neg ?_)
  simp only [List.any_cons, List.any_nil, Bool.or_false, Bool.or_eq_true, outOfAcc, decide_eq_true_eq]
  omega

end Sys2Proof.Machine
end

section
/-! PROOFS. FINET and TEMP by their preconditions, and the STATUS each leaves (41_temperature.md R132, R135). -/

namespace Sys2Proof.Machine

variable {s : State} {st : Byte}

theorem exec_finet (s : State) : exec .finet s = .next (finetStage s).finish := rfl

theorem exec_temp (s : State) : exec .temp s = .next (tempStage s).finish := rfl

theorem exec_finet_uncalibrated (h : readFlag s.status .calValid = false) : exec .finet s = .next (complete .notCalibrated s) := by
  rw [exec_finet, finetStage_uncalibrated h, Stage.finish_raised]

theorem exec_finet_done {f : Int} (h : readFlag s.status .calValid = true) (hf : fineOf s.rawT s.coef = .ok f) :
    exec .finet s = .next (complete .none
      { s with fineT := BitVec.ofInt 32 f, status := writeFlag (clearFineValid s.status) .fineValid true }) := by
  rw [exec_finet, finetStage_done h hf, Stage.finish_done]

theorem tempStage_noFineTemp (h : readFlag s.status .fineValid = false) : tempStage s = .raised .noFineTemp s :=
  if_neg (Bool.eq_false_iff.mp h)

theorem tempStage_done (h : readFlag s.status .fineValid = true) :
    tempStage s = .done
      { s with tempC100 := BitVec.ofInt 32 ((sext s.fineT * 5 + 128) / 256), status := writeFlag s.status .tValid true } := by
  simp only [tempStage, h, tempOf_sext, if_true]

theorem exec_temp_noFineTemp (h : readFlag s.status .fineValid = false) : exec .temp s = .next (complete .noFineTemp s) := by
  rw [exec_temp, tempStage_noFineTemp h, Stage.finish_raised]

theorem exec_temp_done (h : readFlag s.status .fineValid = true) :
    exec .temp s = .next (complete .none
      { s with tempC100 := BitVec.ofInt 32 ((sext s.fineT * 5 + 128) / 256), status := writeFlag s.status .tValid true }) := by
  rw [exec_temp, tempStage_done h, Stage.finish_done]

theorem statusAfter_setFineValid (hcal : readFlag st .calValid = true) :
    StatusAfter st (writeFlag (writeFlag (clearFineValid st) .fineValid true) .busy false) false true true false false false := by
  rw [readFlag_calValid] at hcal
  constructor <;> simp [flagBit, hcal]

theorem statusAfter_setTValid (hfine : readFlag st .fineValid = true) :
    StatusAfter st (writeFlag (writeFlag st .tValid true) .busy false) false (st.getLsbD 1) true true (st.getLsbD 4) (st.getLsbD 5) := by
  rw [readFlag_fineValid] at hfine
  constructor <;> simp [flagBit, hfine]

end Sys2Proof.Machine
end

section
/-! PROOFS. The obligations of 41_temperature.md on the range of FineTemp, and on FINET and TEMP. -/

namespace Sys2Proof.Proofs

open Sys2Proof Sys2Proof.Machine

/-- Settles O27: the fine temperature exists, and its range is that of `fineOf_range`. -/
theorem fineTemperatureNeverOverflows : Obligations.FineTemperatureNeverOverflows := by
  intro raw c ht1
  obtain ⟨f, hf⟩ := fineOf_defined raw c
  obtain ⟨-, hhi, hlo⟩ := fineOf_range hf
  exact ⟨f, hf, hlo ht1, hhi, toInt_ofInt_of_fineOf hf⟩

/-- Settles O28: the function of the statement is `fineOf`, written out. -/
theorem finetComputesTheFineTemperature : Obligations.FinetComputesTheFineTemperature := by
  refine ⟨decode_encode .finet rfl, decode_encode .finetTerr rfl, ?_, ?_, fineOf_defined, by decide⟩
  · intro s hcal
    exact ⟨_, exec_finet_uncalibrated hcal, rfl, statusIdle_writeFlag_busy s.status⟩
  · intro s f hcal hf
    exact ⟨_, exec_finet_done hcal hf, rfl, toInt_ofInt_of_fineOf hf, statusAfter_setFineValid hcal⟩

/-- Settles O29: FINET's only other end with CAL_VALID = 1 is an OVERFLOW, and the fine temperature always exists. -/
theorem finetSucceedsWheneverCalibrated : Obligations.FinetSucceedsWheneverCalibrated := by
  intro s hcal
  obtain ⟨f, hf⟩ := fineOf_defined s.rawT s.coef
  refine ⟨_, exec_finet_done hcal hf, rfl, (statusAfter_setFineValid hcal).fine, ?_⟩
  rw [complete_fineT, toInt_ofInt_of_fineOf hf, hf]

/-- Settles O31: TempC100 is defined on every FINE_T, and its result fits TEMP_C100. -/
theorem tempComputesTheTemperature : Obligations.TempComputesTheTemperature := by
  refine ⟨decode_encode .temp rfl, decode_encode .tempTerr rfl, ?_, ?_, by decide⟩
  · intro s hfine
    exact ⟨_, exec_temp_noFineTemp hfine, rfl, statusIdle_writeFlag_busy s.status⟩
  · intro s hfine
    have hrange := sext_range_32 s.fineT
    exact ⟨_, exec_temp_done hfine, rfl, toInt_ofInt_32 (by omega), statusAfter_setTValid hfine⟩

end Sys2Proof.Proofs
end

section
/-! PROOFS. The obligation of 42_pressure.md on the pressure function as a formula (R141, R142). -/

namespace Sys2Proof.Machine

/-- A test that fails before a bind fails the whole chain. -/
theorem ite_error_bind {α β : Type} (c : Prop) [Decidable c] (e : ErrCode) (x : Except ErrCode α) (f : α → Except ErrCode β) :
    ((if c then .error e else x) >>= f) = if c then .error e else x >>= f := by
  split <;> rfl

end Sys2Proof.Machine

namespace Sys2Proof.Proofs

open Sys2Proof.Machine

/-- Settles O32: as O26, with the binds of the four parts of the pipeline joined to one chain. -/
theorem pressureIsTheCheckedFormula : Obligations.PressureIsTheCheckedFormula := by
  intro adcP f p1 p2 p3 p4 p5 p6 p7 p8 p9
  simp only [pressure, pressPolynomials, pressDenominator, pressQuotient, pressRefine, chk_bind, ite_error_bind,
    ite_any_outOfAcc_cons, ite_any_outOfAcc_nil, shl, asr_eq_ediv, tdiv, Nat.reducePow, Nat.cast_ofNat, pure, Except.pure, ok_bind]

end Sys2Proof.Proofs
end

section
/-! PROOFS. Over the domain of 42_pressure.md R145 the early steps of the pressure function stay in the intervals of its table, and the
denominator is the floor of its product (R142). -/

namespace Sys2Proof.Machine

theorem outOfAcc_eq_false_iff {v : Int} : outOfAcc v = false ↔ -9223372036854775808 ≤ v ∧ v ≤ 9223372036854775807 := by
  rw [outOfAcc, decide_eq_false_iff_not]
  omega

theorem pressDenominator_eq_ok {off p1 den : Int} (h : pressDenominator off p1 = .ok den) : den = off * p1 / 8589934592 := by
  simp only [pressDenominator, bind_eq_ok, chk_eq_ok_iff] at h
  obtain ⟨_, ⟨rfl, _⟩, hden⟩ := h
  cases hden
  exact asr_eq_ediv _ 33

/-- `m5` and `m2` of R141: whichever sign `v1a` has, its product with a coefficient lies between its products with -32768 and 32767. -/
theorem v1a_mul_signed16_range {v1a p : Int} (hv : -4322145 ≤ v1a ∧ v1a ≤ 4066144) (hp : -32768 ≤ p ∧ p ≤ 32767) :
    -141623725215 ≤ v1a * p ∧ v1a * p ≤ 141628047360 := by
  rcases le_total 0 v1a with hpos | hneg
  · have h := mul_signed16_of_nonneg hpos hp
    omega
  · have h := mul_signed16_of_nonpos hneg hp
    omega

/-- `sq` of R141. -/
theorem v1a_mul_self_range {v1a : Int} (hv : -4322145 ≤ v1a ∧ v1a ≤ 4066144) : 0 ≤ v1a * v1a ∧ v1a * v1a ≤ 18680937401025 := by
  have hsq := natAbs_mul_le (show v1a.natAbs ≤ 4322145 by omega) (show v1a.natAbs ≤ 4322145 by omega)
  have hpos := mul_self_nonneg v1a
  omega

/-- `v2a` and `m3` of R141. -/
theorem sq_mul_signed16_range {sq p : Int} (hsq : 0 ≤ sq ∧ sq ≤ 18680937401025) (hp : -32768 ≤ p ∧ p ≤ 32767) :
    -612136956756787200 ≤ sq * p ∧ sq * p ≤ 612118275819386175 := by
  have h := mul_signed16_of_nonneg hsq.1 hp
  omega

/-- Steps 1 to 5 and `off`: with the products in their intervals, every other value is linear in them. -/
theorem pressPolynomials_defined {f p2 p3 p4 p5 p6 : Int} (hf : -4194145 ≤ f ∧ f ≤ 4194144) (h2 : -32768 ≤ p2 ∧ p2 ≤ 32767)
    (h3 : -32768 ≤ p3 ∧ p3 ≤ 32767) (h4 : -32768 ≤ p4 ∧ p4 ≤ 32767) (h5 : -32768 ≤ p5 ∧ p5 ≤ 32767) (h6 : -32768 ≤ p6 ∧ p6 ≤ 32767) :
    ∃ v2c off, pressPolynomials f p2 p3 p4 p5 p6 = .ok (v2c, off) ∧ (-631825761575010304 ≤ v2c ∧ v2c ≤ 631807612790060351) ∧
      -2830513277456512 ≤ off ∧ off ≤ 3111932985261365 := by
  obtain ⟨v1a, hv1a⟩ : ∃ v1a, v1a = f - 128000 := ⟨_, rfl⟩
  have hv : -4322145 ≤ v1a ∧ v1a ≤ 4066144 := by omega
  have hsq := v1a_mul_self_range hv
  have hv2a := sq_mul_signed16_range hsq h6
  have hm3 := sq_mul_signed16_range hsq h3
  have hm5 := v1a_mul_signed16_range hv h5
  have hm2 := v1a_mul_signed16_range hv h2
  refine ⟨v1a * v1a * p6 + v1a * p5 * 131072 + p4 * 34359738368, 140737488355328 + (v1a * v1a * p3 / 256 + v1a * p2 * 4096), ?_, ?_, ?_⟩
  · simp only [pressPolynomials, ← hv1a, bind_eq_ok, chk_eq_ok_iff, and_assoc, exists_eq_left, shl, asr_eq_ediv, Nat.reducePow, Nat.cast_ofNat,
      pure, Except.pure, and_true]
    omega
  · omega
  · omega

end Sys2Proof.Machine

namespace Sys2Proof.Proofs

open Sys2Proof Sys2Proof.Machine

/-- Settles O34: `den` is the floor of the product by 2^33. -/
theorem denominatorIsZeroExactlyBelowTwoToThe33 : Obligations.DenominatorIsZeroExactlyBelowTwoToThe33 := by
  intro off p1 den h
  have hden := pressDenominator_eq_ok h
  omega

/-- Settles O33: the intervals of steps 1 to 5, and `pa`, `s31` and `n0` are linear in `adcP` and `v2c`. -/
theorem earlyPressureStepsNeverOverflow : Obligations.EarlyPressureStepsNeverOverflow := by
  intro adcP f p2 p3 p4 p5 p6 hadcLo hadcHi hfLo hfHi
  obtain ⟨v2c, off, heq, hv2c, hoff⟩ := pressPolynomials_defined ⟨hfLo, hfHi⟩ (sext_range_16 p2) (sext_range_16 p3) (sext_range_16 p4)
    (sext_range_16 p5) (sext_range_16 p6)
  simp only [outOfAcc_eq_false_iff]
  exact ⟨v2c, off, heq, by omega⟩

end Sys2Proof.Proofs
end

section
/-! PROOFS. PRESS by what the pressure function answers, and the STATUS each answer leaves (42_pressure.md R144). -/

namespace Sys2Proof.Machine

variable {s : State}

theorem exec_press (s : State) : exec .press s = .next (pressStage s).finish := rfl

theorem exec_press_noFineTemp (h : readFlag s.status .fineValid = false) : exec .press s = .next (complete .noFineTemp s) := by
  rw [exec_press, pressStage_noFineTemp h, Stage.finish_raised]

theorem exec_press_sentinel (h : readFlag s.status .fineValid = true) (hp : pressureOf s.rawP s.fineT s.coef = .ok .sentinel) :
    exec .press s = .next (complete .none
      { s with pressQ8 := 0#64, status := writeFlag (writeFlag s.status .pValid true) .pSent true }) := by
  rw [exec_press, pressStage_sentinel h hp, Stage.finish_done]

theorem exec_press_value {r : Int} (h : readFlag s.status .fineValid = true) (hp : pressureOf s.rawP s.fineT s.coef = .ok (.value r)) :
    exec .press s = .next (complete .none
      { s with pressQ8 := BitVec.ofInt 64 r, status := writeFlag (writeFlag s.status .pValid true) .pSent false }) := by
  rw [exec_press, pressStage_value h hp, Stage.finish_done]

/-- An error of the pressure function is an OVERFLOW. -/
theorem exec_press_overflow {e : ErrCode} (h : readFlag s.status .fineValid = true) (hp : pressureOf s.rawP s.fineT s.coef = .error e) :
    exec .press s = .next (complete .overflow { s with status := clearPValid s.status }) := by
  cases onlyOverflow_pressureOf _ _ _ e hp
  rw [exec_press, pressStage_raised h hp, Stage.finish_raised]

theorem statusAfter_setPValid {st : Byte} (hfine : readFlag st .fineValid = true) (sent : Bool) :
    StatusAfter st (writeFlag (writeFlag (writeFlag st .pValid true) .pSent sent) .busy false)
      false (st.getLsbD 1) true (st.getLsbD 3) true sent := by
  rw [readFlag_fineValid] at hfine
  constructor <;> simp [flagBit, hfine]

theorem statusAfter_clearPValid_completed {st : Byte} (hfine : readFlag st .fineValid = true) :
    StatusAfter st (writeFlag (clearPValid st) .busy false) false (st.getLsbD 1) true (st.getLsbD 3) false false := by
  rw [readFlag_fineValid] at hfine
  constructor <;> simp [flagBit, hfine]

end Sys2Proof.Machine
end

section
/-! PROOFS. The obligation of 42_pressure.md on PRESS. -/

namespace Sys2Proof.Proofs

open Sys2Proof Sys2Proof.Machine

/-- Settles O36: the function of the statement is `pressureOf`, written out, and PRESS does what its answer says. -/
theorem pressComputesThePressure : Obligations.PressComputesThePressure := by
  refine ⟨decode_encode .press rfl, decode_encode .pressTerr rfl, ?_, ?_, by decide⟩
  · intro s hfine
    exact ⟨_, exec_press_noFineTemp hfine, rfl, statusIdle_writeFlag_busy s.status⟩
  · intro s p hfine hp
    change p = pressureOf s.rawP s.fineT s.coef at hp
    match p with
    | .ok (.value r) =>
      refine ⟨_, exec_press_value hfine hp.symm, rfl, ?_, nofun, nofun⟩
      rintro _ ⟨⟩
      exact ⟨toInt_ofInt_64 (pressureOf_value_range hp.symm), rfl, statusAfter_setPValid hfine false⟩
    | .ok .sentinel =>
      exact ⟨_, exec_press_sentinel hfine hp.symm, rfl, nofun, fun _ => ⟨rfl, rfl, statusAfter_setPValid hfine true⟩, nofun⟩
    | .error e =>
      exact ⟨_, exec_press_overflow hfine hp.symm, rfl, nofun, nofun, fun _ _ => ⟨rfl, rfl, statusAfter_clearPValid_completed hfine⟩⟩

end Sys2Proof.Proofs
end

section
/-! PROOFS. A command writes bits of STATUS to fixed values and leaves the others (10_state.md R33 to R39): such an update absorbs an earlier completion
and repeats itself. -/

namespace Sys2Proof.Machine

/-- The update gives a bit of STATUS a value of its own or leaves it. -/
def OverwritesBits (op : Byte → Byte) : Prop :=
  ∀ k, (∃ b, ∀ st, (op st).getLsbD k = b) ∨ ∀ st, (op st).getLsbD k = st.getLsbD k

variable {op op₁ op₂ : Byte → Byte}

theorem overwritesBits_id : OverwritesBits fun st => st := fun _ => .inr fun _ => rfl

theorem overwritesBits_writeFlag (f : Flag) (b : Bool) : OverwritesBits fun st => writeFlag st f b := by
  intro k
  by_cases hk : k = flagBit f
  · exact .inl ⟨b, fun st => by rw [getLsbD_writeFlag, if_pos hk]⟩
  · exact .inr fun st => by rw [getLsbD_writeFlag, if_neg hk]

theorem OverwritesBits.comp (h₂ : OverwritesBits op₂) (h₁ : OverwritesBits op₁) : OverwritesBits fun st => op₂ (op₁ st) := by
  intro k
  rcases h₂ k with ⟨b, hb⟩ | hkeep
  · exact .inl ⟨b, fun st => hb (op₁ st)⟩
  · simpa only [hkeep] using h₁ k

theorem overwritesBits_clearPValid : OverwritesBits clearPValid :=
  (overwritesBits_writeFlag .pSent false).comp (overwritesBits_writeFlag .pValid false)

theorem overwritesBits_clearTValid : OverwritesBits clearTValid := overwritesBits_writeFlag .tValid false

theorem overwritesBits_clearFineValid : OverwritesBits clearFineValid :=
  overwritesBits_clearPValid.comp (overwritesBits_clearTValid.comp (overwritesBits_writeFlag .fineValid false))

theorem overwritesBits_clearCalValid : OverwritesBits clearCalValid :=
  overwritesBits_clearFineValid.comp (overwritesBits_writeFlag .calValid false)

theorem overwritesBits_setFineValid : OverwritesBits fun st => writeFlag (clearFineValid st) .fineValid true :=
  (overwritesBits_writeFlag .fineValid true).comp overwritesBits_clearFineValid

theorem overwritesBits_setPValid (sent : Bool) : OverwritesBits fun st => writeFlag (writeFlag st .pValid true) .pSent sent :=
  (overwritesBits_writeFlag .pSent sent).comp (overwritesBits_writeFlag .pValid true)

theorem OverwritesBits.idem (h : OverwritesBits op) (st : Byte) : op (op st) = op st := by
  refine status_ext fun k _ => ?_
  rcases h k with ⟨b, hb⟩ | hkeep
  · rw [hb, hb]
  · exact hkeep (op st)

/-- A flag written at the end need not be written before. -/
theorem OverwritesBits.writeFlag_absorb (h : OverwritesBits op) (st : Byte) (f : Flag) (b : Bool) :
    writeFlag (op (writeFlag st f b)) f b = writeFlag (op st) f b := by
  refine status_ext fun k _ => ?_
  rw [getLsbD_writeFlag, getLsbD_writeFlag]
  split
  · rfl
  · next hk =>
    rcases h k with ⟨b, hb⟩ | hkeep
    · rw [hb, hb]
    · rw [hkeep, hkeep, getLsbD_writeFlag, if_neg hk]

/-- A command's end: its update of STATUS, then its completion. -/
def completeWith (op : Byte → Byte) (e : ErrCode) (s : State) : State := complete e { s with status := op s.status }

/-- A completion before a command is lost in the command's own. -/
theorem completeWith_complete (hop : OverwritesBits op) (e e' : ErrCode) (s : State) :
    completeWith op e (complete e' s) = completeWith op e s :=
  congrArg (fun st => { complete e s with status := st }) (hop.writeFlag_absorb s.status .busy false)

theorem completeWith_idem (hop : OverwritesBits op) (e : ErrCode) (s : State) :
    completeWith op e (completeWith op e s) = completeWith op e s :=
  calc completeWith op e (completeWith op e s)
    _ = completeWith op e { s with status := op s.status } := completeWith_complete hop e e _
    _ = completeWith op e s := congrArg (fun st => complete e { s with status := st }) (hop.idem s.status)

end Sys2Proof.Machine
end

section
/-! PROOFS. COMP by its stages (43_control.md R161): where the fine temperature exists, it is PRESS on the state with both temperatures committed. -/

namespace Sys2Proof.Machine

variable {s : State} {f : Int}

/-- The state after the FINET and TEMP stages of COMP, for the fine temperature `f`. -/
def State.withTemperatures (s : State) (f : Int) : State :=
  { s with
    fineT := BitVec.ofInt 32 f
    tempC100 := BitVec.ofInt 32 ((f * 5 + 128) / 256)
    status := writeFlag (writeFlag (clearFineValid s.status) .fineValid true) .tValid true }

theorem withTemperatures_fineT (s : State) (f : Int) : (s.withTemperatures f).fineT = BitVec.ofInt 32 f := rfl

theorem overwritesBits_setTemperatures : OverwritesBits fun st => writeFlag (writeFlag (clearFineValid st) .fineValid true) .tValid true :=
  (overwritesBits_writeFlag .tValid true).comp overwritesBits_setFineValid

theorem readFlag_fineValid_withTemperatures (s : State) (f : Int) : readFlag (s.withTemperatures f).status .fineValid = true := by
  simp [State.withTemperatures, flagBit]

theorem exec_comp (s : State) : exec .comp s = .next (compStage s).finish := rfl

theorem exec_comp_uncalibrated (h : readFlag s.status .calValid = false) : exec .comp s = .next (complete .notCalibrated s) := by
  rw [exec_comp, compStage, finetStage_uncalibrated h, Stage.andThen_raised, Stage.andThen_raised, Stage.finish_raised]

theorem exec_comp_calibrated (h : readFlag s.status .calValid = true) (hf : fineOf s.rawT s.coef = .ok f) :
    exec .comp s = exec .press (s.withTemperatures f) := by
  have hfineT : sext (BitVec.ofInt 32 f) = f := toInt_ofInt_of_fineOf hf
  rw [exec_comp, compStage, finetStage_done h hf, Stage.andThen_done, tempStage_done (by simp [flagBit]), Stage.andThen_done, hfineT]
  rfl

theorem exec_comp_value {r : Int} (h : readFlag s.status .calValid = true) (hf : fineOf s.rawT s.coef = .ok f)
    (hp : pressureOf s.rawP (BitVec.ofInt 32 f) s.coef = .ok (.value r)) :
    exec .comp s = .next (complete .none { s.withTemperatures f with
      pressQ8 := BitVec.ofInt 64 r, status := writeFlag (writeFlag (s.withTemperatures f).status .pValid true) .pSent false }) :=
  (exec_comp_calibrated h hf).trans (exec_press_value (readFlag_fineValid_withTemperatures s f) hp)

theorem exec_comp_sentinel (h : readFlag s.status .calValid = true) (hf : fineOf s.rawT s.coef = .ok f)
    (hp : pressureOf s.rawP (BitVec.ofInt 32 f) s.coef = .ok .sentinel) :
    exec .comp s = .next (complete .none { s.withTemperatures f with
      pressQ8 := 0#64, status := writeFlag (writeFlag (s.withTemperatures f).status .pValid true) .pSent true }) :=
  (exec_comp_calibrated h hf).trans (exec_press_sentinel (readFlag_fineValid_withTemperatures s f) hp)

theorem exec_comp_overflow {e : ErrCode} (h : readFlag s.status .calValid = true) (hf : fineOf s.rawT s.coef = .ok f)
    (hp : pressureOf s.rawP (BitVec.ofInt 32 f) s.coef = .error e) :
    exec .comp s = .next (complete .overflow { s.withTemperatures f with status := clearPValid (s.withTemperatures f).status }) :=
  (exec_comp_calibrated h hf).trans (exec_press_overflow (readFlag_fineValid_withTemperatures s f) hp)

/-- STATUS after COMP, for what the PRESS stage leaves in P_VALID and P_SENT. -/
theorem statusAfter_comp {new : Byte} {pv sent : Bool} (hcal : readFlag s.status .calValid = true)
    (h : StatusAfter (s.withTemperatures f).status new false ((s.withTemperatures f).status.getLsbD 1) true
      ((s.withTemperatures f).status.getLsbD 3) pv sent) :
    StatusAfter s.status new false true true true pv sent := by
  rw [readFlag_calValid] at hcal
  obtain ⟨hbusy, hc, hfine, htv, hpv, hsent, h6, h7⟩ := h
  refine ⟨hbusy, hc.trans ?_, hfine, htv.trans ?_, hpv, hsent, h6.trans ?_, h7.trans ?_⟩ <;> simp [State.withTemperatures, flagBit, hcal]

end Sys2Proof.Machine
end

section
/-! PROOFS. The commands in sequence: PRESS does not look at what a completion wrote, and a command on the state it left gives that state again
(43_control.md R162, R170). -/

namespace Sys2Proof.Machine

variable {s : State}

theorem readFlag_complete {f : Flag} (hf : f ≠ .busy) (e : ErrCode) (s : State) : readFlag (complete e s).status f = readFlag s.status f := by
  rw [complete_status, readFlag_writeFlag, if_neg hf]

theorem exec_press_complete (e : ErrCode) (s : State) : exec .press (complete e s) = exec .press s := by
  have hfine : readFlag (complete e s).status .fineValid = readFlag s.status .fineValid := readFlag_complete (by decide) e s
  rcases pressStage_cases s with ⟨hs, -⟩ | ⟨hs, hp, -⟩ | ⟨r, hs, hp, -⟩ | ⟨_, hs, hp, -⟩ <;> rw [← hfine] at hs
  · rw [exec_press_noFineTemp hs, exec_press_noFineTemp (hfine ▸ hs)]
    exact congrArg _ (completeWith_complete overwritesBits_id _ _ s)
  · rw [exec_press_sentinel hs hp, exec_press_sentinel (hfine ▸ hs) hp]
    exact congrArg _ (completeWith_complete (overwritesBits_setPValid true) _ _ { s with pressQ8 := 0#64 })
  · rw [exec_press_value hs hp, exec_press_value (hfine ▸ hs) hp]
    exact congrArg _ (completeWith_complete (overwritesBits_setPValid false) _ _ { s with pressQ8 := BitVec.ofInt 64 r })
  · rw [exec_press_overflow hs hp, exec_press_overflow (hfine ▸ hs) hp]
    exact congrArg _ (completeWith_complete overwritesBits_clearPValid _ _ s)

/-- On the state FINET left, TEMP gives the completion of the state COMP has after its TEMP stage. -/
theorem exec_temp_after_finet {f : Int} {t : State} (hcal : readFlag s.status .calValid = true) (hf : fineOf s.rawT s.coef = .ok f)
    (ht : exec .finet s = .next t) : exec .temp t = .next (complete .none (s.withTemperatures f)) := by
  have hfineT : sext (BitVec.ofInt 32 f) = f := toInt_ofInt_of_fineOf hf
  cases (exec_finet_done hcal hf).symm.trans ht
  refine (exec_temp_done ?_).trans ?_
  · exact (statusAfter_setFineValid hcal).fine
  · rw [complete_fineT, hfineT]
    exact congrArg _ (completeWith_complete (overwritesBits_writeFlag .tValid true) _ _ { s.withTemperatures f with
      status := writeFlag (clearFineValid s.status) .fineValid true })

/-- Executing the instruction on the state it left gives that state. -/
def RepeatsItself (i : Instr) (s : State) : Prop := ∃ t, exec i s = .next t ∧ exec i t = .next t

/-- An instruction that ends in the same way in `s` and on the state it left. -/
theorem repeatsItself_of_completeWith {i : Instr} {e : ErrCode} {op : Byte → Byte} (hop : OverwritesBits op) (u : State)
    (hfirst : exec i s = .next (completeWith op e u))
    (hagain : exec i (completeWith op e u) = .next (completeWith op e (completeWith op e u))) : RepeatsItself i s :=
  ⟨_, hfirst, hagain.trans (congrArg _ (completeWith_idem hop e u))⟩

theorem repeatsItself_finet (s : State) : RepeatsItself .finet s := by
  cases hcal : readFlag s.status .calValid with
  | false =>
    exact repeatsItself_of_completeWith overwritesBits_id s (exec_finet_uncalibrated hcal)
      (exec_finet_uncalibrated ((readFlag_complete (by decide) _ s).trans hcal))
  | true =>
    obtain ⟨f, hf⟩ := fineOf_defined s.rawT s.coef
    exact repeatsItself_of_completeWith overwritesBits_setFineValid { s with fineT := BitVec.ofInt 32 f } (exec_finet_done hcal hf)
      (exec_finet_done (statusAfter_setFineValid hcal).cal hf)

theorem repeatsItself_temp (s : State) : RepeatsItself .temp s := by
  cases hfine : readFlag s.status .fineValid with
  | false =>
    exact repeatsItself_of_completeWith overwritesBits_id s (exec_temp_noFineTemp hfine)
      (exec_temp_noFineTemp ((readFlag_complete (by decide) _ s).trans hfine))
  | true =>
    exact repeatsItself_of_completeWith (overwritesBits_writeFlag .tValid true)
      { s with tempC100 := BitVec.ofInt 32 ((sext s.fineT * 5 + 128) / 256) } (exec_temp_done hfine) (exec_temp_done (statusAfter_setTValid hfine).fine)

theorem repeatsItself_press (s : State) : RepeatsItself .press s := by
  rcases pressStage_cases s with ⟨hfine, -⟩ | ⟨hfine, hp, -⟩ | ⟨r, hfine, hp, -⟩ | ⟨_, hfine, hp, -⟩
  · exact repeatsItself_of_completeWith overwritesBits_id s (exec_press_noFineTemp hfine)
      (exec_press_noFineTemp ((readFlag_complete (by decide) _ s).trans hfine))
  · exact repeatsItself_of_completeWith (overwritesBits_setPValid true) { s with pressQ8 := 0#64 } (exec_press_sentinel hfine hp)
      (exec_press_sentinel (statusAfter_setPValid hfine true).fine hp)
  · exact repeatsItself_of_completeWith (overwritesBits_setPValid false) { s with pressQ8 := BitVec.ofInt 64 r } (exec_press_value hfine hp)
      (exec_press_value (statusAfter_setPValid hfine false).fine hp)
  · exact repeatsItself_of_completeWith overwritesBits_clearPValid s (exec_press_overflow hfine hp)
      (exec_press_overflow (statusAfter_clearPValid_completed hfine).fine hp)

theorem repeatsItself_comp (s : State) : RepeatsItself .comp s := by
  cases hcal : readFlag s.status .calValid with
  | false =>
    exact repeatsItself_of_completeWith overwritesBits_id s (exec_comp_uncalibrated hcal)
      (exec_comp_uncalibrated ((readFlag_complete (by decide) _ s).trans hcal))
  | true =>
    obtain ⟨f, hf⟩ := fineOf_defined s.rawT s.coef
    have hfine := readFlag_fineValid_withTemperatures s f
    match hp : pressureOf s.rawP (BitVec.ofInt 32 f) s.coef with
    | .ok (.value r) =>
      exact repeatsItself_of_completeWith ((overwritesBits_setPValid false).comp overwritesBits_setTemperatures)
        { s.withTemperatures f with pressQ8 := BitVec.ofInt 64 r, status := s.status } (exec_comp_value hcal hf hp)
        (exec_comp_value (statusAfter_comp hcal (statusAfter_setPValid hfine false)).cal hf hp)
    | .ok .sentinel =>
      exact repeatsItself_of_completeWith ((overwritesBits_setPValid true).comp overwritesBits_setTemperatures)
        { s.withTemperatures f with pressQ8 := 0#64, status := s.status } (exec_comp_sentinel hcal hf hp)
        (exec_comp_sentinel (statusAfter_comp hcal (statusAfter_setPValid hfine true)).cal hf hp)
    | .error e =>
      exact repeatsItself_of_completeWith (overwritesBits_clearPValid.comp overwritesBits_setTemperatures)
        { s.withTemperatures f with status := s.status } (exec_comp_overflow hcal hf hp)
        (exec_comp_overflow (statusAfter_comp hcal (statusAfter_clearPValid_completed hfine)).cal hf hp)

end Sys2Proof.Machine
end

section
/-! PROOFS. The obligations of 43_control.md on NOP, COMP and repeated commands. -/

namespace Sys2Proof.Proofs

open Sys2Proof Sys2Proof.Machine

/-- Settles O39: COMP is PRESS on the state with both temperatures, and does there what the pressure function answers. -/
theorem compRunsTheThreeStages : Obligations.CompRunsTheThreeStages := by
  refine ⟨decode_encode .comp rfl, decode_encode .compTerr rfl, ?_, ?_⟩
  · intro s hcal
    exact ⟨_, exec_comp_uncalibrated hcal, rfl, statusIdle_writeFlag_busy s.status⟩
  · intro s f hcal hf
    have hfine := readFlag_fineValid_withTemperatures s f
    have hfineT := toInt_ofInt_of_fineOf hf
    have hrange := fineOf_range hf
    have htemp : (BitVec.ofInt 32 ((f * 5 + 128) / 256)).toInt = (f * 5 + 128) / 256 := toInt_ofInt_32 (by omega)
    match hp : pressureOf s.rawP (BitVec.ofInt 32 f) s.coef with
    | .ok (.value r) =>
      refine ⟨_, exec_comp_value hcal hf hp, rfl, hfineT, htemp, ?_⟩
      simp only [complete_fineT, withTemperatures_fineT, hp]
      refine ⟨?_, nofun, nofun⟩
      rintro _ ⟨⟩
      exact ⟨toInt_ofInt_64 (pressureOf_value_range hp), rfl, statusAfter_comp hcal (statusAfter_setPValid hfine false)⟩
    | .ok .sentinel =>
      refine ⟨_, exec_comp_sentinel hcal hf hp, rfl, hfineT, htemp, ?_⟩
      simp only [complete_fineT, withTemperatures_fineT, hp]
      exact ⟨nofun, fun _ => ⟨rfl, rfl, statusAfter_comp hcal (statusAfter_setPValid hfine true)⟩, nofun⟩
    | .error e =>
      refine ⟨_, exec_comp_overflow hcal hf hp, rfl, hfineT, htemp, ?_⟩
      simp only [complete_fineT, withTemperatures_fineT, hp]
      exact ⟨nofun, nofun, fun _ _ => ⟨rfl, rfl, statusAfter_comp hcal (statusAfter_clearPValid_completed hfine)⟩⟩

/-- Settles O40: FINET and TEMP leave the state COMP's own stages do, completed, and PRESS does not see the completion. -/
theorem compEqualsTheSequenceOfItsCommands : Obligations.CompEqualsTheSequenceOfItsCommands := by
  intro s
  cases hcal : readFlag s.status .calValid with
  | false =>
    obtain ⟨b, hb⟩ := exec_next .temp (complete .notCalibrated s)
    obtain ⟨c, hc⟩ := exec_next .press b
    refine ⟨_, b, c, exec_finet_uncalibrated hcal, hb, hc, ?_⟩
    rw [if_pos (by simp)]
    exact exec_comp_uncalibrated hcal
  | true =>
    obtain ⟨f, hf⟩ := fineOf_defined s.rawT s.coef
    have hfinet := exec_finet_done hcal hf
    obtain ⟨c, hc⟩ := exec_next .press (complete .none (s.withTemperatures f))
    refine ⟨_, _, c, hfinet, exec_temp_after_finet hcal hf hfinet, hc, ?_⟩
    rw [if_neg (by simp), if_neg (by simp), exec_comp_calibrated hcal hf, ← exec_press_complete .none, hc]

/-- Settles O47: every command completes after one update of STATUS, and meets the same condition again on the state it left. -/
theorem repeatedCommandsAreIdempotent : Obligations.RepeatedCommandsAreIdempotent := by
  intro i s hcommand hloadcal
  cases i with
  | finet => exact repeatsItself_finet s
  | temp => exact repeatsItself_temp s
  | press => exact repeatsItself_press s
  | comp => exact repeatsItself_comp s
  | loadcalTerr => exact repeatsItself_of_completeWith overwritesBits_clearCalValid { s with calWmask := 0#24 } rfl rfl
  | finetTerr | compTerr => exact repeatsItself_of_completeWith overwritesBits_clearFineValid s rfl rfl
  | tempTerr => exact repeatsItself_of_completeWith overwritesBits_clearTValid s rfl rfl
  | pressTerr => exact repeatsItself_of_completeWith overwritesBits_clearPValid s rfl rfl
  | nop | nopTerr | illegalOp6 | illegalOp8 | illegalRsv4 | illegalRsv5 | illegalRsv6 =>
    exact repeatsItself_of_completeWith overwritesBits_id s rfl rfl
  | loadcal => exact absurd rfl hloadcal
  | wr | rd => cases hcommand

/-- Settles O18: NOP is the completion alone. -/
theorem nopClearsErrAndNothingElse : Obligations.NopClearsErrAndNothingElse := by
  refine ⟨decode_encode .nop rfl, decode_encode .nopTerr rfl, ?_, ?_, ?_⟩
  · exact fun s => ⟨_, rfl, rfl, statusIdle_writeFlag_busy s.status⟩
  · exact fun s => ⟨_, rfl, rfl⟩
  · intro s _ hstatus
    refine ⟨_, rfl, rfl, ?_⟩
    rw [complete_status, hstatus]
    decide

end Sys2Proof.Proofs
end

section
/-! PROOFS. STATUS after a transport abort, whichever flags it clears (60_exceptions.md R184). -/

namespace Sys2Proof.Machine

/-- A completion after the clearing of some flags: BUSY is 0, and each other flag is 0 or as it was. -/
theorem ClearsFlags.statusAfter_completed {p : Nat → Prop} [DecidablePred p] {st st' : Byte} (h : ClearsFlags p st st') (h6 : ¬p 6) (h7 : ¬p 7) :
    StatusAfter st (writeFlag st' .busy false) false (if p 1 then false else st.getLsbD 1) (if p 2 then false else st.getLsbD 2)
      (if p 3 then false else st.getLsbD 3) (if p 4 then false else st.getLsbD 4) (if p 5 then false else st.getLsbD 5) := by
  have hbit {k : Nat} (hk : k ≠ flagBit .busy) : (writeFlag st' .busy false).getLsbD k = if p k then false else st.getLsbD k := by
    rw [getLsbD_writeFlag, if_neg hk, h.bits]
  exact ⟨getLsbD_writeFlag st' .busy false 0, hbit (by decide), hbit (by decide), hbit (by decide), hbit (by decide), hbit (by decide),
    (hbit (by decide)).trans (if_neg h6), (hbit (by decide)).trans (if_neg h7)⟩

end Sys2Proof.Machine
end

section
/-! PROOFS. Which command can end with OVERFLOW, and why (60_exceptions.md R187; 41_temperature.md R133, R136). -/

namespace Sys2Proof.Machine

variable {i : Instr} {s t u : State}

/-- The code in ERR tells how the command completed. -/
theorem eq_overflow_of_err {e : ErrCode} (hend : exec i s = .next (complete e u)) (hexec : exec i s = .next t) (herr : t.err = 0x05#8) :
    e = .overflow := by
  cases hend.symm.trans hexec
  exact errByte_injective herr

theorem err_loadcal_ne_overflow (hexec : exec .loadcal s = .next t) : t.err ≠ 0x05#8 := by
  intro herr
  by_cases hvalid : calibrationValid s.calWmask (decodeCoefs s.calraw) = true
  · cases eq_overflow_of_err (exec_loadcal_of_valid hvalid) hexec herr
  · cases eq_overflow_of_err (exec_loadcal_of_invalid hvalid) hexec herr

theorem err_finet_ne_overflow (hexec : exec .finet s = .next t) : t.err ≠ 0x05#8 := by
  intro herr
  cases hcal : readFlag s.status .calValid with
  | false => cases eq_overflow_of_err (exec_finet_uncalibrated hcal) hexec herr
  | true =>
    obtain ⟨f, hf⟩ := fineOf_defined s.rawT s.coef
    cases eq_overflow_of_err (exec_finet_done hcal hf) hexec herr

theorem err_temp_ne_overflow (hexec : exec .temp s = .next t) : t.err ≠ 0x05#8 := by
  intro herr
  cases hfine : readFlag s.status .fineValid with
  | false => cases eq_overflow_of_err (exec_temp_noFineTemp hfine) hexec herr
  | true => cases eq_overflow_of_err (exec_temp_done hfine) hexec herr

theorem pressureOf_overflow_of_press (hexec : exec .press s = .next t) (herr : t.err = 0x05#8) :
    pressureOf s.rawP s.fineT s.coef = .error .overflow := by
  rcases pressStage_cases s with ⟨hfine, -⟩ | ⟨hfine, hp, -⟩ | ⟨r, hfine, hp, -⟩ | ⟨e, hfine, hp, -⟩
  · cases eq_overflow_of_err (exec_press_noFineTemp hfine) hexec herr
  · cases eq_overflow_of_err (exec_press_sentinel hfine hp) hexec herr
  · cases eq_overflow_of_err (exec_press_value hfine hp) hexec herr
  · rw [hp, onlyOverflow_pressureOf _ _ _ e hp]

/-- A calibrated COMP is PRESS on the state with the new fine temperature. -/
theorem pressureOf_overflow_of_comp (hexec : exec .comp s = .next t) (herr : t.err = 0x05#8) :
    ∃ f : Int, fineOf s.rawT s.coef = .ok f ∧ pressureOf s.rawP (BitVec.ofInt 32 f) s.coef = .error .overflow := by
  cases hcal : readFlag s.status .calValid with
  | false => cases eq_overflow_of_err (exec_comp_uncalibrated hcal) hexec herr
  | true =>
    obtain ⟨f, hf⟩ := fineOf_defined s.rawT s.coef
    have hpress : exec .press (s.withTemperatures f) = .next t := (exec_comp_calibrated hcal hf).symm.trans hexec
    have hoverflow := pressureOf_overflow_of_press hpress herr
    exact ⟨f, hf, hoverflow⟩

end Sys2Proof.Machine
end

section
/-! PROOFS. The illegal bytes as instructions (30_encoding.md R107, 60_exceptions.md R188). -/

namespace Sys2Proof.Machine

/-- What the decoder makes of an illegal byte is in one of the five illegal rows. -/
theorem isIllegal_decodeCmd {c : Byte} (h : IllegalByte c) : isIllegal (decodeCmd c) = true := by
  rw [decodeCmd_illegal h, illegalRow]
  split_ifs <;> rfl

end Sys2Proof.Machine
end

section
/-! PROOFS. The obligations of 60_exceptions.md on the codes of ERR. -/

namespace Sys2Proof.Proofs

open Sys2Proof Sys2Proof.Machine

/-- Settles O37: the sentinel path of PRESS completes with NONE, and COMP takes it on the state with both temperatures. -/
theorem sentinelIsASuccess : Obligations.SentinelIsASuccess := by
  constructor
  · intro s hfine hp
    have hstatus := statusAfter_setPValid hfine true
    exact ⟨_, exec_press_sentinel hfine hp, rfl, rfl, hstatus.pv, hstatus.sent⟩
  · intro s f hcal hf hp
    have hstatus := statusAfter_setPValid (readFlag_fineValid_withTemperatures s f) true
    exact ⟨_, exec_comp_sentinel hcal hf hp, rfl, rfl, hstatus.pv, hstatus.sent⟩

/-- Settles O38: FINET and TEMP never overflow, PRESS only by its function, and COMP only as the PRESS it ends in; every other command ends with a
code of its own. -/
theorem overflowComesOnlyFromThePressureStage : Obligations.OverflowComesOnlyFromThePressureStage := by
  intro i s hcommand
  obtain ⟨t, hexec⟩ := exec_next i s
  refine ⟨t, hexec, fun herr => ?_⟩
  cases i with
  | press => exact .inl ⟨rfl, pressureOf_overflow_of_press hexec herr⟩
  | comp => exact .inr ⟨rfl, pressureOf_overflow_of_comp hexec herr⟩
  | loadcal => exact absurd herr (err_loadcal_ne_overflow hexec)
  | finet => exact absurd herr (err_finet_ne_overflow hexec)
  | temp => exact absurd herr (err_temp_ne_overflow hexec)
  | wr | rd => cases hcommand
  | _ => cases eq_overflow_of_err rfl hexec herr

/-- Settles O19: an illegal byte decodes to an illegal row, and of those O20 says it. -/
theorem illegalCommandChangesOnlyErr : Obligations.IllegalCommandChangesOnlyErr := by
  intro c s hillegal
  exact everyIllegalRowChangesOnlyErr (decodeCmd c) s (isIllegal_decodeCmd hillegal)

/-- Settles O21: each abort is its clearing, completed with TRANSPORT. -/
theorem transportAbortClearsOnlyItsOwnResults : Obligations.TransportAbortClearsOnlyItsOwnResults := by
  refine ⟨⟨decode_encode .nopTerr rfl, decode_encode .loadcalTerr rfl, decode_encode .finetTerr rfl, decode_encode .tempTerr rfl,
    decode_encode .pressTerr rfl, decode_encode .compTerr rfl⟩, fun s => ?_⟩
  have hfine := (clearsFlags_clearFineValid s.status).statusAfter_completed (by decide) (by decide)
  have htemp := (clearsFlags_clearTValid s.status).statusAfter_completed (by decide) (by decide)
  have hpress := (clearsFlags_clearPValid s.status).statusAfter_completed (by decide) (by decide)
  exact ⟨⟨_, rfl, rfl, statusIdle_writeFlag_busy s.status⟩, ⟨_, rfl, rfl, statusAfter_clearCalValid s.status⟩, ⟨_, rfl, rfl, hfine⟩,
    ⟨_, rfl, rfl, htemp⟩, ⟨_, rfl, rfl, hpress⟩, ⟨_, rfl, rfl, hfine⟩⟩

/-- Settles O41: without calibration both commands raise NOT_CALIBRATED before any effect. -/
theorem uncalibratedCommandsChangeOnlyErr : Obligations.UncalibratedCommandsChangeOnlyErr := by
  rintro s i hcal (rfl | rfl)
  · exact ⟨_, exec_finet_uncalibrated hcal, rfl, statusIdle_writeFlag_busy s.status⟩
  · exact ⟨_, exec_comp_uncalibrated hcal, rfl, statusIdle_writeFlag_busy s.status⟩

/-- Settles O42: without a fine temperature both commands raise NO_FINE_TEMP before any effect. -/
theorem commandsWithoutFineTemperatureChangeOnlyErr : Obligations.CommandsWithoutFineTemperatureChangeOnlyErr := by
  rintro s i hfine (rfl | rfl)
  · exact ⟨_, exec_temp_noFineTemp hfine, rfl, statusIdle_writeFlag_busy s.status⟩
  · exact ⟨_, exec_press_noFineTemp hfine, rfl, statusIdle_writeFlag_busy s.status⟩

end Sys2Proof.Proofs
end

section
/-! PROOFS. How a pending command comes to its end: the reset step, one step of a run, and the inputs that wait (70_reset_and_hazards.md R200, R206). -/

namespace Sys2Proof.Machine

variable {s s' t u : State} {rest : List Input} {k : Nat}

theorem step_of_inputs_reset (h : s.inputs = .reset :: rest) : step s = .next (resetInput { s with inputs := rest }) :=
  step_of_fetch_quiet (by simp only [fetch, h])

theorem core_run_one (h : step s = .next t) : Sys2Proof.core.run 1 s = .next t := core_run_succ 0 h

/-- `k` steps, at most one more than there are inputs waiting, lead from `s` to `t` with BUSY = 0; and where no reset waits, the last of them is the
pending command's, on the CE of `s`. -/
structure CompletesIn (s : State) (k : Nat) (t : State) : Prop where
  bound : k ≤ s.inputs.length + 1
  run : Sys2Proof.core.run k s = .next t
  idle : readFlag t.status .busy = false
  effect : .reset ∉ s.inputs →
    ∃ u : State, u = { s with reply := u.reply, draws := u.draws, inputs := s.inputs.drop k } ∧ exec (decodeCmd s.pending) u = .next t

/-- The engine's move ends the pending command. -/
theorem completesIn_of_engine (hstep : step s = exec (decodeCmd s.pending) u) (hu : u = { s with inputs := s.inputs.drop 1 }) :
    ∃ t, CompletesIn s 1 t := by
  obtain ⟨e, v, hexec⟩ := exec_eq_complete (isCommand_decodeCmd s.pending) u
  have hidle : readFlag (complete e v).status .busy = false := (statusIdle_writeFlag_busy v.status).busy
  exact ⟨_, Nat.le_add_left 1 _, core_run_one (hstep.trans hexec), hidle, fun _ => ⟨u, by rw [hu], hexec⟩⟩

/-- A reset ends it too, by discarding it. -/
theorem completesIn_of_reset (h : s.inputs = .reset :: rest) : CompletesIn s 1 (resetInput { s with inputs := rest }) := by
  have hidle : readFlag State.reset.status .busy = false := by decide
  exact ⟨Nat.le_add_left 1 _, core_run_one (step_of_inputs_reset h), hidle, fun hnone => absurd (h ▸ List.mem_cons_self) hnone⟩

/-- A transaction only puts the end off by one step, since it moves nothing of CE while BUSY = 1. -/
theorem CompletesIn.of_transaction {w : BusWord} (h : s.inputs = .bus w :: rest) (hstep : step s = .next s')
    (hs' : s' = { s with inputs := rest, reply := s'.reply, draws := s'.draws }) (hend : CompletesIn s' k t) : CompletesIn s (k + 1) t := by
  have hinputs : s'.inputs = rest := by rw [hs']
  have hpending : s'.pending = s.pending := by rw [hs']
  refine ⟨?_, (core_run_succ k hstep).trans hend.run, hend.idle, fun hnone => ?_⟩
  · rw [h, List.length_cons, ← hinputs]
    exact Nat.succ_le_succ hend.bound
  · obtain ⟨u, hu, hexec⟩ := hend.effect (by rw [hinputs]; exact fun hmem => hnone (h ▸ List.mem_cons_of_mem _ hmem))
    refine ⟨u, ?_, hpending ▸ hexec⟩
    rw [h, List.drop_succ_cons, ← hinputs, hu, hs']

end Sys2Proof.Machine
end

section
/-! PROOFS. The obligations of 70_reset_and_hazards.md. -/

namespace Sys2Proof.Proofs

open Sys2Proof Sys2Proof.Machine

/-- By induction on the inputs waiting: the engine and the reset end the command at once, and a transaction leaves it to the inputs behind it. -/
theorem exists_completesIn {s : State} (hbusy : readFlag s.status .busy = true)
    (hwords : ∀ w : BusWord, .bus w ∈ s.inputs → ∃ i : Instr, decode (.bus w) = .ok i) : ∃ k t, CompletesIn s k t := by
  induction hinputs : s.inputs generalizing s with
  | nil =>
    have hdrop : s.inputs.drop 1 = s.inputs := by rw [hinputs, List.drop_nil]
    exact ⟨1, completesIn_of_engine ((engineStepRunsThePendingCommand s [] hbusy).1 hinputs) (by rw [hdrop])⟩
  | cons input rest ih =>
    cases input with
    | engine =>
      have hdrop : s.inputs.drop 1 = rest := by rw [hinputs, List.drop_one, List.tail_cons]
      exact ⟨1, completesIn_of_engine ((engineStepRunsThePendingCommand s rest hbusy).2 hinputs) (by rw [hdrop])⟩
    | reset => exact ⟨1, _, completesIn_of_reset hinputs⟩
    | bus w =>
      obtain ⟨i, hdecode⟩ := hwords w (hinputs ▸ List.mem_cons_self)
      obtain ⟨s', hexec⟩ := exec_next i { s with inputs := rest }
      have hstep : step s = .next s' := (hostStepRunsTheDecodedTransaction s w rest i hinputs hdecode).trans hexec
      have hs' := busyHostTrafficLeavesCeAlone s s' w rest hbusy hinputs hstep
      have hinputs' : s'.inputs = rest := by rw [hs']
      have hbusy' : readFlag s'.status .busy = true := by rw [hs']; exact hbusy
      have hwords' : ∀ v : BusWord, .bus v ∈ s'.inputs → ∃ i : Instr, decode (.bus v) = .ok i :=
        fun v hv => hwords v (hinputs ▸ List.mem_cons_of_mem _ (hinputs' ▸ hv))
      obtain ⟨k, t, hend⟩ := ih hbusy' hwords' hinputs'
      exact ⟨k + 1, t, hend.of_transaction hinputs hstep hs'⟩

/-- Settles O46: the command completes in such a number of steps. -/
theorem aPendingCommandCompletesUnlessReset : Obligations.APendingCommandCompletesUnlessReset := by
  intro s hbusy hwords
  obtain ⟨k, t, hend⟩ := exists_completesIn hbusy hwords
  exact ⟨k, t, hend.bound, hend.run, hend.idle, hend.effect⟩

/-- Settles O8: the step takes the reset input, whose state is `State.reset` in every register of CE. -/
theorem resetInputZeroesEveryRegister : Obligations.ResetInputZeroesEveryRegister := by
  intro s rest hinputs
  have hcalraw (i : Nat) (hi : i < 24) : (resetInput { s with inputs := rest }).calraw[i] = 0x00#8 := Vector.getElem_replicate hi
  exact ⟨_, step_of_inputs_reset hinputs, rfl, rfl, rfl, rfl, rfl, hcalraw, rfl, rfl, rfl, rfl, rfl, rfl, rfl, rfl, rfl, rfl, rfl, rfl, rfl, rfl, rfl,
    rfl⟩

/-- Settles O50: each invariant holds of the state after reset. -/
theorem resetStateMeetsTheInvariants : Obligations.ResetStateMeetsTheInvariants := ⟨inv_reset, fresh_reset⟩

end Sys2Proof.Proofs
end
